-- ==== Sys2Proof/Word.lean ====
section
/-! DEFINITION. The word types of the model: a lane byte and a call frame.
Every other quantity of the block is an unsigned natural number (00_scope.md rule R7), cut to a width only where
a rule writes it. -/

namespace Sys2Proof

/-- A lane byte, the content of one written image cell (10_state.md rule R17, 30_encoding.md rule R40). -/
abbrev Byte := BitVec 8

/-- One host call as bytes, first byte first (log 1, log 2: the spec has no instruction stream, 30_encoding.md rule R57). -/
abbrev Frame := List Byte

end Sys2Proof
end

