-- ==== Sys2Proof/Syntax.lean ====
section
/-! DEFINITION. The operations of the block as syntax: one constructor of `Instr` for each of the 124 rows of
spec/opcode_table.json, in the table's order. Operands are natural numbers, so that a value outside its field
reaches the operation and is rejected unreduced (40_address_codec.md rule R60, 60_exceptions.md rule R111). -/

namespace Sys2Proof

/-- The nineteen fields of a control word, in the row order of 30_encoding.md rule R47. -/
inductive CwField where
  | nextStep
  | ldAddrHi
  | ldAddrLo
  | memOe
  | memWe
  | ldIr
  | ldA
  | ldB
  | ldRes
  | resOe
  | aluOp
  | ldPcHi
  | ldPcLo
  | pcHiOe
  | pcLoOe
  | incPc
  | ldIo
  | ioOe
  | ioWe
  deriving DecidableEq, Repr

/-- A record with one component per control-word field (41_control_word_codec.md rule R73), raw naturals. -/
structure CwRecord where
  nextStep : Nat
  ldAddrHi : Nat
  ldAddrLo : Nat
  memOe : Nat
  memWe : Nat
  ldIr : Nat
  ldA : Nat
  ldB : Nat
  ldRes : Nat
  resOe : Nat
  aluOp : Nat
  ldPcHi : Nat
  ldPcLo : Nat
  pcHiOe : Nat
  pcLoOe : Nat
  incPc : Nat
  ldIo : Nat
  ioOe : Nat
  ioWe : Nat
  deriving DecidableEq, Repr

/-- The eight ALU operation codes by name (30_encoding.md rule R48). -/
inductive AluOp where
  | nop | shift | add | sub | inv | xor | or | and
  deriving DecidableEq, Repr

/-- The four members of the condition nibble (30_encoding.md rule R44). -/
inductive StatusBit where
  | interruptPending | carry | negative | zero
  deriving DecidableEq, Repr

/-- One constructor per row of spec/opcode_table.json. The rows from MA-G on are no operations of the spec: each is the
reading of an address or of a control word that its rule states (log 4), and each JDEC.i.j row is the one EMIT of
JDEC's loop body at (i, j) (log 5). -/
inductive Instr where
  /-- ENCODE (R60): the operands in the order of the contract. -/
  | encode (opc am pf step cond : Nat)
  /-- DECODE (R61). -/
  | decode (a : Nat)
  /-- ENCODEJ (R62). -/
  | encodej (taddr sel cond : Nat)
  /-- DECODEJ (R63). -/
  | decodej (a : Nat)
  /-- LANEBYTE (R70): a container and a lane index. -/
  | lanebyte (w c : Nat)
  /-- LANEJOIN (R71): the bytes of lanes 0, 1, 2. -/
  | lanejoin (b0 b1 b2 : Nat)
  /-- CWPACK (R73): a record of the nineteen fields. -/
  | cwpack (r : CwRecord)
  /-- CWUNPACK (R74). -/
  | cwunpack (w : Nat)
  /-- PLACE (20_memory.md R27): address, chip index, value. -/
  | place (a c v : Nat)
  /-- IMGREAD (20_memory.md R29): chip index, address. -/
  | imgread (c a : Nat)
  /-- EMIT (R80): address, control word. -/
  | emit (a w : Nat)
  /-- EXPAND.FIXED (R81): an Entry whose cond is only(n). -/
  | expandFixed (opc am pf step n cw : Nat)
  /-- EXPAND.WILD (R82): an Entry whose cond is any. -/
  | expandWild (opc am pf step cw : Nat)
  /-- EXPAND.TABLE (R83): its operand is the parameter TABLE. -/
  | expandTable
  /-- JSEQ (R90): its operand is the parameter JUMP_TEMPLATE. -/
  | jseq
  /-- JDEC (R94). -/
  | jdec
  /-- VALIDATE (R100): its operands are the parameters. -/
  | validate
  /-- GENERATE (R101): its operands are the parameters. -/
  | generate
  /-- LOOKUP (R102). -/
  | lookup (a : Nat)
  /-- The formats MA-G (R41), MA-J (R42, R43), CW (R46), of an address or a control word. -/
  | formatMaG (a : Nat)
  | formatMaJ (a : Nat)
  | formatCw (w : Nat)
  /-- The address fields (R41, R42) of an address. -/
  | magOpc (a : Nat)
  | magAm (a : Nat)
  | magRsv (a : Nat)
  | magPf (a : Nat)
  | magStep (a : Nat)
  | magCond (a : Nat)
  | majSel (a : Nat)
  /-- The bits of the condition nibble (R44) of an address. -/
  | cond0 (a : Nat)
  | cond1 (a : Nat)
  | cond2 (a : Nat)
  | cond3 (a : Nat)
  /-- The eight selector values (R45), asked of an address. -/
  | sel0 (a : Nat)
  | sel1 (a : Nat)
  | sel2 (a : Nat)
  | sel3 (a : Nat)
  | sel4 (a : Nat)
  | sel5 (a : Nat)
  | sel6 (a : Nat)
  | sel7 (a : Nat)
  /-- The nineteen control-word fields (R47) of a control word. -/
  | cwNextStep (w : Nat)
  | cwLdAddrHi (w : Nat)
  | cwLdAddrLo (w : Nat)
  | cwMemOe (w : Nat)
  | cwMemWe (w : Nat)
  | cwLdIr (w : Nat)
  | cwLdA (w : Nat)
  | cwLdB (w : Nat)
  | cwLdRes (w : Nat)
  | cwResOe (w : Nat)
  | cwAluOp (w : Nat)
  | cwLdPcHi (w : Nat)
  | cwLdPcLo (w : Nat)
  | cwPcHiOe (w : Nat)
  | cwPcLoOe (w : Nat)
  | cwIncPc (w : Nat)
  | cwLdIo (w : Nat)
  | cwIoOe (w : Nat)
  | cwIoWe (w : Nat)
  /-- The eight ALU codes (R48), asked of a control word. -/
  | aluNop (w : Nat)
  | aluShift (w : Nat)
  | aluAdd (w : Nat)
  | aluSub (w : Nat)
  | aluInv (w : Nat)
  | aluXor (w : Nat)
  | aluOr (w : Nat)
  | aluAnd (w : Nat)
  | jdecI1J0 | jdecI1J1 | jdecI1J2 | jdecI1J3 | jdecI1J4 | jdecI1J5 | jdecI1J6 | jdecI1J7
  | jdecI2J0 | jdecI2J1 | jdecI2J2 | jdecI2J3 | jdecI2J4 | jdecI2J5 | jdecI2J6 | jdecI2J7
  | jdecI3J0 | jdecI3J1 | jdecI3J2 | jdecI3J3 | jdecI3J4 | jdecI3J5 | jdecI3J6 | jdecI3J7
  | jdecI4J0 | jdecI4J1 | jdecI4J2 | jdecI4J3 | jdecI4J4 | jdecI4J5 | jdecI4J6 | jdecI4J7
  | jdecI5J0 | jdecI5J1 | jdecI5J2 | jdecI5J3 | jdecI5J4 | jdecI5J5 | jdecI5J6 | jdecI5J7
  | jdecI6J0 | jdecI6J1 | jdecI6J2 | jdecI6J3 | jdecI6J4 | jdecI6J5 | jdecI6J6 | jdecI6J7
  | jdecI7J0 | jdecI7J1 | jdecI7J2 | jdecI7J3 | jdecI7J4 | jdecI7J5 | jdecI7J6 | jdecI7J7
  deriving DecidableEq, Repr

/-- The components of a record in row order. -/
def CwRecord.values (r : CwRecord) : List Nat :=
  [r.nextStep, r.ldAddrHi, r.ldAddrLo, r.memOe, r.memWe, r.ldIr, r.ldA, r.ldB, r.ldRes, r.resOe, r.aluOp, r.ldPcHi, r.ldPcLo, r.pcHiOe, r.pcLoOe, r.incPc, r.ldIo, r.ioOe, r.ioWe]

/-- The operands of an instruction in the order of its constructor. -/
def Instr.operands : Instr → List Nat
  | .encode opc am pf step cond => [opc, am, pf, step, cond]
  | .decode a => [a]
  | .encodej taddr sel cond => [taddr, sel, cond]
  | .decodej a => [a]
  | .lanebyte w c => [w, c]
  | .lanejoin b0 b1 b2 => [b0, b1, b2]
  | .cwpack r => r.values
  | .cwunpack w => [w]
  | .place a c v => [a, c, v]
  | .imgread c a => [c, a]
  | .emit a w => [a, w]
  | .expandFixed opc am pf step n cw => [opc, am, pf, step, n, cw]
  | .expandWild opc am pf step cw => [opc, am, pf, step, cw]
  | .expandTable => []
  | .jseq => []
  | .jdec => []
  | .validate => []
  | .generate => []
  | .lookup a => [a]
  | .formatMaG a => [a]
  | .formatMaJ a => [a]
  | .formatCw w => [w]
  | .magOpc a => [a]
  | .magAm a => [a]
  | .magRsv a => [a]
  | .magPf a => [a]
  | .magStep a => [a]
  | .magCond a => [a]
  | .majSel a => [a]
  | .cond0 a => [a]
  | .cond1 a => [a]
  | .cond2 a => [a]
  | .cond3 a => [a]
  | .sel0 a => [a]
  | .sel1 a => [a]
  | .sel2 a => [a]
  | .sel3 a => [a]
  | .sel4 a => [a]
  | .sel5 a => [a]
  | .sel6 a => [a]
  | .sel7 a => [a]
  | .cwNextStep w => [w]
  | .cwLdAddrHi w => [w]
  | .cwLdAddrLo w => [w]
  | .cwMemOe w => [w]
  | .cwMemWe w => [w]
  | .cwLdIr w => [w]
  | .cwLdA w => [w]
  | .cwLdB w => [w]
  | .cwLdRes w => [w]
  | .cwResOe w => [w]
  | .cwAluOp w => [w]
  | .cwLdPcHi w => [w]
  | .cwLdPcLo w => [w]
  | .cwPcHiOe w => [w]
  | .cwPcLoOe w => [w]
  | .cwIncPc w => [w]
  | .cwLdIo w => [w]
  | .cwIoOe w => [w]
  | .cwIoWe w => [w]
  | .aluNop w => [w]
  | .aluShift w => [w]
  | .aluAdd w => [w]
  | .aluSub w => [w]
  | .aluInv w => [w]
  | .aluXor w => [w]
  | .aluOr w => [w]
  | .aluAnd w => [w]
  | .jdecI1J0 | .jdecI1J1 | .jdecI1J2 | .jdecI1J3 | .jdecI1J4 | .jdecI1J5 | .jdecI1J6 | .jdecI1J7 => []
  | .jdecI2J0 | .jdecI2J1 | .jdecI2J2 | .jdecI2J3 | .jdecI2J4 | .jdecI2J5 | .jdecI2J6 | .jdecI2J7 => []
  | .jdecI3J0 | .jdecI3J1 | .jdecI3J2 | .jdecI3J3 | .jdecI3J4 | .jdecI3J5 | .jdecI3J6 | .jdecI3J7 => []
  | .jdecI4J0 | .jdecI4J1 | .jdecI4J2 | .jdecI4J3 | .jdecI4J4 | .jdecI4J5 | .jdecI4J6 | .jdecI4J7 => []
  | .jdecI5J0 | .jdecI5J1 | .jdecI5J2 | .jdecI5J3 | .jdecI5J4 | .jdecI5J5 | .jdecI5J6 | .jdecI5J7 => []
  | .jdecI6J0 | .jdecI6J1 | .jdecI6J2 | .jdecI6J3 | .jdecI6J4 | .jdecI6J5 | .jdecI6J6 | .jdecI6J7 => []
  | .jdecI7J0 | .jdecI7J1 | .jdecI7J2 | .jdecI7J3 | .jdecI7J4 | .jdecI7J5 | .jdecI7J6 | .jdecI7J7 => []

end Sys2Proof
end

