-- ==== Sys2Proof/Config.lean ====
section
/-! DEFINITION. The fixed constants of 00_scope.md rule R5 and the parameters of 00_scope.md rule R6 as plain data.
The model has no opaque constant: the spec calls no result of an operation undefined, and every value it leaves open
is one of the parameters below, which State carries (log 6), so that a statement about every state holds for every
value of them. -/

namespace Sys2Proof

namespace Config

/-- Number of addresses of an image, 2^16 (R5 IMG_SIZE, ADDR_W). -/
def imageSize : Nat := 65536
/-- Number of lanes, chips and images (R5 N_CHIPS). -/
def chips : Nat := 3
/-- One more than the largest lane byte (R5 LANE_W). -/
def laneLimit : Nat := 256
/-- One more than the largest control word (R5 CW_W). -/
def wordLimit : Nat := 2 ^ 24
/-- One more than the largest container value (R5 CW_CONTAINER_W). -/
def containerLimit : Nat := 2 ^ 32
/-- The step value of the branch-decision step (R5 DECISION_STEP). -/
def decisionStep : Nat := 3
/-- Bit position of the selector's bit 0 (R5 SEL_SHIFT). -/
def selShift : Nat := 8
/-- Bit position of the flag pattern's bit 0 (R5 FLAGPAT_SHIFT). -/
def flagpatShift : Nat := 1

end Config

/-- One component of a raw table element, as the host supplies it (log 21): a natural number, the two forms of `cond`
(30_encoding.md rule R52), or anything else. -/
inductive Component where
  | nat (n : Nat)
  | any
  | only (n : Nat)
  | other
  deriving DecidableEq, Repr

/-- A raw element of TABLE or JUMP_TEMPLATE before VALIDATE: any list of components (30_encoding.md rule R52,
42_table_expansion.md rule R86). -/
abbrev RawElement := List Component

/-- Where CWL puts one field: a lane index and the lowest bit of the field's range in that lane
(30_encoding.md rule R47); the range has the field's width (log 17). -/
structure FieldPos where
  lane : Nat
  lo : Nat
  deriving DecidableEq, Repr

/-- The layout parameter CWL: a position for each of the nineteen fields (30_encoding.md rule R47). -/
structure Layout where
  nextStep : FieldPos
  ldAddrHi : FieldPos
  ldAddrLo : FieldPos
  memOe : FieldPos
  memWe : FieldPos
  ldIr : FieldPos
  ldA : FieldPos
  ldB : FieldPos
  ldRes : FieldPos
  resOe : FieldPos
  aluOp : FieldPos
  ldPcHi : FieldPos
  ldPcLo : FieldPos
  pcHiOe : FieldPos
  pcLoOe : FieldPos
  incPc : FieldPos
  ldIo : FieldPos
  ioOe : FieldPos
  ioWe : FieldPos
  deriving DecidableEq, Repr

end Sys2Proof

namespace Sys2Proof.Machine

/-- One rule of the parameter PlaceOK in data form (log 9): the medium rejects a placement when every given component
equals the placement's; `none` leaves a component open. -/
structure RejectRule where
  chip : Option Nat
  addr : Option Nat
  value : Option Nat
  count : Option Nat
  deriving DecidableEq, Repr

/-- The parameters of a run (00_scope.md rule R6), raw as the host supplies them: VALIDATE checks them. -/
structure Params where
  /-- TABLE. -/
  table : List RawElement
  /-- JUMP_TEMPLATE. -/
  template : List RawElement
  /-- JUMP_BASE. -/
  jumpBase : Nat
  /-- CW_CONTINUE. -/
  cwContinue : Nat
  /-- CW_ABORT. -/
  cwAbort : Nat
  /-- FILL[0]. -/
  fill0 : Nat
  /-- FILL[1]. -/
  fill1 : Nat
  /-- FILL[2]. -/
  fill2 : Nat
  /-- CWL. -/
  cwl : Layout
  /-- PlaceOK: a placement is rejected when a rule of the list matches it. -/
  rejects : List RejectRule
  deriving DecidableEq, Repr

end Sys2Proof.Machine
end

