-- ==== Sys2Proof/Machine/Bits.lean ====
section
/-! DEFINITION. Slices of naturals (00_scope.md rule R7). -/

namespace Sys2Proof

/-- `v[hi:lo]`, the bits `hi` down to `lo` read as an unsigned number (R7). -/
def slice (v hi lo : Nat) : Nat := (v >>> lo) % 2 ^ (hi - lo + 1)

/-- `v[i]`, bit `i` (R7). -/
def bitOf (v i : Nat) : Bool := v.testBit i

end Sys2Proof
end

