-- ==== Sys2Proof/Machine/Layout.lean ====
section
/-! DEFINITION. The control-word layout CWL (30_encoding.md rules R46, R47): widths, named lanes, positions, the
constraints every layout must meet, and the default layout. -/

namespace Sys2Proof

/-- The three lanes by the document's names (30_encoding.md rule R46). -/
inductive NamedLane where
  | sequencer | datapath | control
  deriving DecidableEq, Repr

/-- Width of a field in bits (R46). -/
def CwField.width : CwField → Nat
  | .nextStep => 4
  | .aluOp => 3
  | .ldAddrHi | .ldAddrLo | .memOe | .memWe => 1
  | .ldIr | .ldA | .ldB | .ldRes | .resOe => 1
  | .ldPcHi | .ldPcLo | .pcHiOe | .pcLoOe | .incPc | .ldIo | .ioOe | .ioWe => 1

/-- The lane the document names for a field (R46). -/
def CwField.namedLane : CwField → NamedLane
  | .nextStep | .ldAddrHi | .ldAddrLo | .memOe | .memWe => .sequencer
  | .ldIr | .ldA | .ldB | .ldRes | .resOe | .aluOp => .datapath
  | .ldPcHi | .ldPcLo | .pcHiOe | .pcLoOe | .incPc | .ldIo | .ioOe | .ioWe => .control

/-- The nineteen fields in the row order of R47, the order CWPACK goes through them (41_control_word_codec.md R73). -/
def rowOrder : List CwField :=
  [.nextStep, .ldAddrHi, .ldAddrLo, .memOe, .memWe, .ldIr, .ldA, .ldB, .ldRes, .resOe] ++
  [.aluOp, .ldPcHi, .ldPcLo, .pcHiOe, .pcLoOe, .incPc, .ldIo, .ioOe, .ioWe]

/-- The component of a record for a field. -/
def CwRecord.get (r : CwRecord) : CwField → Nat
  | .nextStep => r.nextStep
  | .ldAddrHi => r.ldAddrHi
  | .ldAddrLo => r.ldAddrLo
  | .memOe => r.memOe
  | .memWe => r.memWe
  | .ldIr => r.ldIr
  | .ldA => r.ldA
  | .ldB => r.ldB
  | .ldRes => r.ldRes
  | .resOe => r.resOe
  | .aluOp => r.aluOp
  | .ldPcHi => r.ldPcHi
  | .ldPcLo => r.ldPcLo
  | .pcHiOe => r.pcHiOe
  | .pcLoOe => r.pcLoOe
  | .incPc => r.incPc
  | .ldIo => r.ldIo
  | .ioOe => r.ioOe
  | .ioWe => r.ioWe

/-- The record whose component for each field is given. -/
def CwRecord.build (g : CwField → Nat) : CwRecord where
  nextStep := g .nextStep
  ldAddrHi := g .ldAddrHi
  ldAddrLo := g .ldAddrLo
  memOe := g .memOe
  memWe := g .memWe
  ldIr := g .ldIr
  ldA := g .ldA
  ldB := g .ldB
  ldRes := g .ldRes
  resOe := g .resOe
  aluOp := g .aluOp
  ldPcHi := g .ldPcHi
  ldPcLo := g .ldPcLo
  pcHiOe := g .pcHiOe
  pcLoOe := g .pcLoOe
  incPc := g .incPc
  ldIo := g .ldIo
  ioOe := g .ioOe
  ioWe := g .ioWe

/-- Where a layout puts a field. -/
def Layout.pos (L : Layout) : CwField → FieldPos
  | .nextStep => L.nextStep
  | .ldAddrHi => L.ldAddrHi
  | .ldAddrLo => L.ldAddrLo
  | .memOe => L.memOe
  | .memWe => L.memWe
  | .ldIr => L.ldIr
  | .ldA => L.ldA
  | .ldB => L.ldB
  | .ldRes => L.ldRes
  | .resOe => L.resOe
  | .aluOp => L.aluOp
  | .ldPcHi => L.ldPcHi
  | .ldPcLo => L.ldPcLo
  | .pcHiOe => L.pcHiOe
  | .pcLoOe => L.pcLoOe
  | .incPc => L.incPc
  | .ldIo => L.ldIo
  | .ioOe => L.ioOe
  | .ioWe => L.ioWe

/-- Lowest word bit of a field: 8 times its lane index plus its lowest lane bit (41_control_word_codec.md R73). -/
def Layout.lo (L : Layout) (f : CwField) : Nat := 8 * (L.pos f).lane + (L.pos f).lo

/-- Highest word bit of a field. -/
def Layout.hi (L : Layout) (f : CwField) : Nat := L.lo f + f.width - 1

/-- The first field of a named lane in row order; its lane index is the index the layout gives that named lane. -/
def NamedLane.leader : NamedLane → CwField
  | .sequencer => .nextStep
  | .datapath => .ldIr
  | .control => .ldPcHi

/-- The lane index a layout gives a named lane. -/
def Layout.laneOf (L : Layout) (n : NamedLane) : Nat := (L.pos n.leader).lane

/-- Two fields of a layout share a bit. -/
def Layout.overlap (L : Layout) (f g : CwField) : Bool :=
  (L.pos f).lane == (L.pos g).lane &&
    decide ((L.pos f).lo < (L.pos g).lo + g.width) && decide ((L.pos g).lo < (L.pos f).lo + f.width)

/-- The fields before a field in row order. -/
def CwField.before (f : CwField) : List CwField := rowOrder.takeWhile (fun g => g != f)

/-- The named lanes before a field's named lane, when the field is the first of its lane. -/
def CwField.lanesBefore : CwField → List NamedLane
  | .ldIr => [.sequencer]
  | .ldPcHi => [.sequencer, .datapath]
  | _ => []

/-- A field of a layout offends against the constraints of R47: it leaves its lane or its lane is no lane, it lies
outside the lane the document names for it, NEXT_STEP is not the high nibble, the three named lanes do not take three
different indices, or it shares a bit with an earlier field. -/
def Layout.offends (L : Layout) (f : CwField) : Bool :=
  decide (Config.chips ≤ (L.pos f).lane) || decide (8 < (L.pos f).lo + f.width) ||
  (L.pos f).lane != L.laneOf f.namedLane || (f == .nextStep && (L.pos f).lo != 4) ||
  f.lanesBefore.any (fun n => L.laneOf n == (L.pos f).lane) || f.before.any (fun g => L.overlap f g)

/-- The first offending field in row order, if any. -/
def Layout.firstOffender (L : Layout) : Option CwField := rowOrder.find? L.offends

/-- The layout meets the constraints of R47. -/
def Layout.valid (L : Layout) : Bool := L.firstOffender.isNone

/-- The default layout of R47 (the spec's own choice, 92_eei_decisions.md D2, D3; log 8). -/
def Layout.default : Layout where
  nextStep := ⟨0, 4⟩
  ldAddrHi := ⟨0, 3⟩
  ldAddrLo := ⟨0, 2⟩
  memOe := ⟨0, 1⟩
  memWe := ⟨0, 0⟩
  ldIr := ⟨1, 7⟩
  ldA := ⟨1, 6⟩
  ldB := ⟨1, 5⟩
  ldRes := ⟨1, 4⟩
  resOe := ⟨1, 3⟩
  aluOp := ⟨1, 0⟩
  ldPcHi := ⟨2, 7⟩
  ldPcLo := ⟨2, 6⟩
  pcHiOe := ⟨2, 5⟩
  pcLoOe := ⟨2, 4⟩
  incPc := ⟨2, 3⟩
  ldIo := ⟨2, 2⟩
  ioOe := ⟨2, 1⟩
  ioWe := ⟨2, 0⟩

end Sys2Proof
end

