-- ==== Sys2Proof/Machine/State.lean ====
section
/-! DEFINITION. The state of the block and of the model as plain data (10_state.md), the faults of the spec (60_exceptions.md), the values a
call returns, the two ways a step can stop, and the state after reset. -/

namespace Sys2Proof.Machine

/-- The name of an operand or of a single parameter in a FieldOverlap (60_exceptions.md rule R111). -/
inductive OperandName where
  | opc | am | pf | step | cond | address | taddr | sel | cw | lane | lanebyte | place
  | jumpBase | cwContinue | cwAbort
  deriving DecidableEq, Repr

/-- The list named by a MalformedEntry (60_exceptions.md rule R112). -/
inductive ListName where
  | table | jumpTemplate | decisionWords
  deriving DecidableEq, Repr

/-- `what` of a FieldOverlap: an operand or parameter, a component of the k-th element of a list (k from 0), a
control-word field, the layout CWL, or FILL[c] (60_exceptions.md rule R111). -/
inductive What where
  | operand (o : OperandName)
  | element (l : ListName) (k : Nat) (o : OperandName)
  | field (f : CwField)
  | layout
  | fill (c : Nat)
  deriving DecidableEq, Repr

/-- `value` of a FieldOverlap: the offending number as given, a triple of operands, or the offending field of CWL. -/
inductive Offending where
  | num (v : Nat)
  | triple (a b c : Nat)
  | field (f : CwField)
  deriving DecidableEq, Repr

/-- The two synchronous faults of the spec (60_exceptions.md rules R110 to R112). They do not stop the model: the call
that raises one returns it (R118), and GENERATE ends Fatal with it (R116); see log 13. -/
inductive SpecFault where
  | fieldOverlap (what : What) (value : Offending)
  | malformedEntry (list : ListName) (index : Nat)
  deriving DecidableEq, Repr

/-- A record of DIAG: the address and chip index of a rejected placement (10_state.md rule R18, 60_exceptions.md R113). -/
structure WriteTargetFailure where
  address : Nat
  chip : Nat
  deriving DecidableEq, Repr

/-- The number the spec assigns to a fault class (60_exceptions.md rule R114): 1, 2 for the two faults. -/
def SpecFault.code : SpecFault → Nat
  | .fieldOverlap _ _ => 1
  | .malformedEntry _ _ => 2

/-- The number the spec assigns to WriteTargetFailure (60_exceptions.md rule R114). -/
def WriteTargetFailure.code (_ : WriteTargetFailure) : Nat := 3

/-- The 3-bit jump-test selector: bit 0 carry, bit 1 negative, bit 2 zero are TESTED (30_encoding.md rule R45). A type of
its own, distinct from `FlagPattern` (70_reset_and_hazards.md rule R136). -/
structure JumpSelector where
  bits : BitVec 3
  deriving DecidableEq, Repr

/-- The 3-bit flag pattern: bit 0 carry, bit 1 negative, bit 2 zero are SET (30_encoding.md rule R45). -/
structure FlagPattern where
  bits : BitVec 3
  deriving DecidableEq, Repr

/-- The fields of an address in format MA-G (30_encoding.md rule R41, 40_address_codec.md rule R61). -/
structure GeneralFields where
  opc : Nat
  am : Nat
  rsv : Nat
  pf : Nat
  step : Nat
  cond : Nat
  deriving DecidableEq, Repr

/-- The fields of an address in the jump view (30_encoding.md rule R42, 40_address_codec.md rule R63). -/
structure JumpFields where
  taddr : Nat
  sel : JumpSelector
  step : Nat
  cond : Nat
  flagpat : FlagPattern
  irq : Nat
  deriving DecidableEq, Repr

/-- What a call returned to the host (log 10). -/
inductive Result where
  /-- No call has returned yet. -/
  | nothing
  /-- The call ended without a value to return (PLACE, EMIT, the passes, a VALIDATE that passes). -/
  | done
  /-- The call raised a fault of the spec, which stands in place of a value (60_exceptions.md rules R116, R118). -/
  | fault (f : SpecFault)
  /-- A 16-bit microaddress (ENCODE, ENCODEJ). -/
  | address (a : Nat)
  /-- The fields of DECODE. -/
  | general (g : GeneralFields)
  /-- The fields of DECODEJ. -/
  | jump (j : JumpFields)
  /-- A lane byte (LANEBYTE). -/
  | laneByte (b : Nat)
  /-- A control word (LANEJOIN, CWPACK, LOOKUP). -/
  | word (w : Nat)
  /-- The named signals of CWUNPACK. -/
  | signals (r : CwRecord)
  /-- The byte of IMGREAD. -/
  | imageByte (b : Nat)
  /-- The outcome Finished of GENERATE; the images and DIAG it delivers are read off the state. -/
  | finished
  /-- The outcome Fatal(fault) of GENERATE: the fault and no image (60_exceptions.md rule R116). -/
  | fatal (f : SpecFault)
  /-- An address read in format MA-G, and whether that format applies to it (30_encoding.md rule R43). -/
  | formatG (applies : Bool) (g : GeneralFields)
  /-- An address read in format MA-J, and whether that format applies to it (30_encoding.md rule R43). -/
  | formatJ (applies : Bool) (j : JumpFields)
  /-- The sequencer, datapath and control lane bytes of a control word (30_encoding.md rule R46). -/
  | lanes (sequencer datapath control : Nat)
  /-- The value of one field. -/
  | field (v : Nat)
  /-- One member of the condition nibble and whether it is set (30_encoding.md rule R44). -/
  | status (b : StatusBit) (isSet : Bool)
  /-- Whether an address carries the selector value asked for, and which flags that value tests (30_encoding.md rule R45). -/
  | selector (present carry negative zero : Bool)
  /-- Whether a control word carries the ALU operation asked for (30_encoding.md rule R48). -/
  | alu (op : AluOp) (present : Bool)
  deriving DecidableEq, Repr

/-- The state of the block (10_state.md): what the engine changes, and all of it. `img0`, `img1`, `img2` are the images
IMG[0], IMG[1], IMG[2] (R16): the written cells, addresses strictly rising; an address not listed is `unwritten` (R17).
`diag` is DIAG (R18). `placed` is the number of PLACE calls made earlier in this run (20_memory.md R27). -/
structure Block where
  img0 : List Host.Cell
  img1 : List Host.Cell
  img2 : List Host.Cell
  diag : List WriteTargetFailure
  placed : Nat
  deriving DecidableEq, Repr

/-- What a step of the model takes and answers: the block, and beside it what is no state of the block (10_state.md R14,
R19). `params` are the arguments of the step, the parameters the host supplies; no operation on a `Block` holds them, each
takes them as an argument, and a step answers those it was given (log 6). `finished` is the host's: whether the last
GENERATE returned Finished, so that reads have a meaning (20_memory.md R36, log 11). `calls` are the host's calls not yet
run and `result` what the last one returned (log 1, log 10). -/
structure State extends Block where
  params : Params
  finished : Bool
  calls : List Frame
  result : Result
  deriving DecidableEq, Repr

/-- Why a call frame is no call (log 2). -/
inductive FrameError where
  /-- The frame has no byte. -/
  | empty
  /-- The call code is no row of spec/opcode_table.json. -/
  | unknownCode (code : Nat)
  /-- The operand bytes are not the operation's number of operand containers. -/
  | badOperands (code : Nat)
  deriving DecidableEq, Repr

/-- Why a step stops with a fault. -/
inductive Fault where
  /-- Raised by `step` when the host's pending call is no call frame. The encoding of calls is the model's own (log 2), so
  no operation of the spec is lost: safe. -/
  | badCall (e : FrameError)
  /-- Raised by IMGREAD outside the three address spaces of 65536 cells (20_memory.md rule R25): there is no such cell and
  the spec gives the read no effect (log 18): safe. -/
  | noSuchCell (chip address : Nat)
  deriving DecidableEq, Repr

/-- Why a step refuses. -/
inductive Refusal where
  /-- Raised by `exec` for an instruction without a meaning; no arm uses it: safe. -/
  | notModelled (mnemonic : String)
  /-- Raised by IMGREAD and LOOKUP when the last GENERATE has not finished: "a model refuses it" (20_memory.md rule R36,
  log 11): safe. -/
  | readBeforeFinished
  /-- Raised by EXPAND.TABLE and JSEQ called directly on an element that is not form-conforming: only VALIDATE raises
  MalformedEntry (60_exceptions.md rule R112) and the spec gives the pass no effect on it (log 14): safe. -/
  | malformedElement (list : ListName)
  deriving DecidableEq, Repr

/-- The parameters at reset: the spec's defaults for FILL, CWL and PlaceOK (00_scope.md rule R6, log 8); for the others,
which have no default, the values of log 7. -/
def resetParams : Params where
  table := []
  template := []
  jumpBase := 0
  cwContinue := 1
  cwAbort := 0
  fill0 := 0
  fill1 := 0
  fill2 := 0
  cwl := Layout.default
  rejects := []

/-- The block after reset (10_state.md rule R20, 70_reset_and_hazards.md rule R130): every cell `unwritten`, DIAG empty,
no placement made. -/
def Block.reset : Block where
  img0 := []
  img1 := []
  img2 := []
  diag := []
  placed := 0

/-- The machine after reset when the host supplies the given parameters (70_reset_and_hazards.md rule R132): no run
finished, no call pending, nothing returned. -/
def State.resetWith (p : Params) : State where
  toBlock := Block.reset
  params := p
  finished := false
  calls := []
  result := .nothing

/-- The machine after reset, with the parameters of log 7 and log 8. -/
def State.reset : State := State.resetWith resetParams

end Sys2Proof.Machine
end

