-- ==== Sys2Proof/WellFormed.lean ====
section
/-! DEFINITION. When an instruction can be written as a call frame: every operand fits its operand container.
An operand outside its FIELD is well formed: rejecting it is the operation's own business (60_exceptions.md rule R111). -/

namespace Sys2Proof

/-- One more than the largest operand a call frame carries (log 2): eight bytes per operand, above the 2^32 of the
control-word container (41_control_word_codec.md rule R70), so that every operand fault of the spec can be called for. -/
def operandLimit : Nat := 2 ^ 64

/-- Every operand fits its container of the call frame. -/
def Instr.wellFormed (i : Instr) : Bool := i.operands.all (fun v => decide (v < operandLimit))

end Sys2Proof
end

