-- ==== Sys2Proof/Decode.lean ====
section
/-! DEFINITION. Call frames: the decoder, total on any bytes and rejecting by name, and after it the encoder.

The spec gives no operation a binary opcode (30_encoding.md rule R57: "the block is not driven by an instruction
stream"), so a frame is the model's own encoding of a host call (log 2): the row number of the operation in
spec/opcode_table.json in four bytes, then each operand in eight bytes, least significant byte first. A frame of one, two
or three bytes is an object of the table presented without a call code, an 8-bit, 16-bit or 24-bit pattern: it reads as
the table row whose bit pattern it is (log 3). -/

namespace Sys2Proof

open Sys2Proof.Machine (FrameError)

/-! ## Bytes -/

/-- A number as `n` bytes, least significant first. -/
def leBytes : Nat → Nat → Frame
  | 0, _ => []
  | n + 1, v => BitVec.ofNat 8 v :: leBytes n (v / 256)

/-- The number of a byte list, least significant first. -/
def leNat : Frame → Nat
  | [] => 0
  | b :: bs => b.toNat + 256 * leNat bs

/-- Splits operand bytes into eight-byte numbers; none where bytes are left over. -/
def operandsOf : Frame → Option (List Nat)
  | [] => some []
  | b0 :: b1 :: b2 :: b3 :: b4 :: b5 :: b6 :: b7 :: rest =>
    match operandsOf rest with
    | some vs => some (leNat [b0, b1, b2, b3, b4, b5, b6, b7] :: vs)
    | none => none
  | _ => none

/-! ## Operations by row number -/

/-- An instruction with no operand. -/
def take0 (i : Instr) : List Nat → Option Instr
  | [] => some i
  | _ => none

/-- An instruction with one operand. -/
def take1 (f : Nat → Instr) : List Nat → Option Instr
  | [a] => some (f a)
  | _ => none

/-- An instruction with two operands. -/
def take2 (f : Nat → Nat → Instr) : List Nat → Option Instr
  | [a, b] => some (f a b)
  | _ => none

/-- An instruction with three operands. -/
def take3 (f : Nat → Nat → Nat → Instr) : List Nat → Option Instr
  | [a, b, c] => some (f a b c)
  | _ => none

/-- An instruction with five operands. -/
def take5 (f : Nat → Nat → Nat → Nat → Nat → Instr) : List Nat → Option Instr
  | [a, b, c, d, e] => some (f a b c d e)
  | _ => none

/-- An instruction with six operands. -/
def take6 (f : Nat → Nat → Nat → Nat → Nat → Nat → Instr) : List Nat → Option Instr
  | [a, b, c, d, e, g] => some (f a b c d e g)
  | _ => none

/-- CWPACK's operand: the nineteen components in row order. -/
def takeRecord (f : CwRecord → Instr) : List Nat → Option Instr
  | [a, b, c, d, e, g, h, i, j, k, l, m, n, o, p, q, r, s, t] =>
    some (f ⟨a, b, c, d, e, g, h, i, j, k, l, m, n, o, p, q, r, s, t⟩)
  | _ => none

/-- The nineteen operations (rows 0 to 18). -/
def operationRows : List (List Nat → Option Instr) :=
  [take5 .encode, take1 .decode, take3 .encodej, take1 .decodej, take2 .lanebyte, take3 .lanejoin,
   takeRecord .cwpack, take1 .cwunpack, take3 .place, take2 .imgread, take2 .emit, take6 .expandFixed,
   take5 .expandWild, take0 .expandTable, take0 .jseq, take0 .jdec, take0 .validate, take0 .generate,
   take1 .lookup]

/-- The readings of an address (rows 19 to 40, with the format CW as row 21). -/
def addressRows : List (List Nat → Option Instr) :=
  [take1 .formatMaG, take1 .formatMaJ, take1 .formatCw, take1 .magOpc, take1 .magAm, take1 .magRsv,
   take1 .magPf, take1 .magStep, take1 .magCond, take1 .majSel, take1 .cond0, take1 .cond1, take1 .cond2,
   take1 .cond3, take1 .sel0, take1 .sel1, take1 .sel2, take1 .sel3, take1 .sel4, take1 .sel5, take1 .sel6,
   take1 .sel7]

/-- The readings of a control word (rows 41 to 67). -/
def wordRows : List (List Nat → Option Instr) :=
  [take1 .cwNextStep, take1 .cwLdAddrHi, take1 .cwLdAddrLo, take1 .cwMemOe, take1 .cwMemWe, take1 .cwLdIr,
   take1 .cwLdA, take1 .cwLdB, take1 .cwLdRes, take1 .cwResOe, take1 .cwAluOp, take1 .cwLdPcHi,
   take1 .cwLdPcLo, take1 .cwPcHiOe, take1 .cwPcLoOe, take1 .cwIncPc, take1 .cwLdIo, take1 .cwIoOe,
   take1 .cwIoWe, take1 .aluNop, take1 .aluShift, take1 .aluAdd, take1 .aluSub, take1 .aluInv, take1 .aluXor,
   take1 .aluOr, take1 .aluAnd]

/-- The decision cells (rows 68 to 123), by selector 1 to 7 and flag pattern 0 to 7. -/
def decisionRows : List Instr :=
  [Instr.jdecI1J0, Instr.jdecI1J1, Instr.jdecI1J2, Instr.jdecI1J3, Instr.jdecI1J4, Instr.jdecI1J5, Instr.jdecI1J6, Instr.jdecI1J7] ++
  [Instr.jdecI2J0, Instr.jdecI2J1, Instr.jdecI2J2, Instr.jdecI2J3, Instr.jdecI2J4, Instr.jdecI2J5, Instr.jdecI2J6, Instr.jdecI2J7] ++
  [Instr.jdecI3J0, Instr.jdecI3J1, Instr.jdecI3J2, Instr.jdecI3J3, Instr.jdecI3J4, Instr.jdecI3J5, Instr.jdecI3J6, Instr.jdecI3J7] ++
  [Instr.jdecI4J0, Instr.jdecI4J1, Instr.jdecI4J2, Instr.jdecI4J3, Instr.jdecI4J4, Instr.jdecI4J5, Instr.jdecI4J6, Instr.jdecI4J7] ++
  [Instr.jdecI5J0, Instr.jdecI5J1, Instr.jdecI5J2, Instr.jdecI5J3, Instr.jdecI5J4, Instr.jdecI5J5, Instr.jdecI5J6, Instr.jdecI5J7] ++
  [Instr.jdecI6J0, Instr.jdecI6J1, Instr.jdecI6J2, Instr.jdecI6J3, Instr.jdecI6J4, Instr.jdecI6J5, Instr.jdecI6J6, Instr.jdecI6J7] ++
  [Instr.jdecI7J0, Instr.jdecI7J1, Instr.jdecI7J2, Instr.jdecI7J3, Instr.jdecI7J4, Instr.jdecI7J5, Instr.jdecI7J6, Instr.jdecI7J7]

/-- Every row of spec/opcode_table.json in the table's order. -/
def tableRows : List (List Nat → Option Instr) :=
  operationRows ++ addressRows ++ wordRows ++ decisionRows.map take0

/-- The instruction of a row number and its operands. -/
def rebuild (code : Nat) (vs : List Nat) : Option Instr :=
  match tableRows[code]? with
  | some f => f vs
  | none => none

/-! ## Patterns of the table -/

/-- The decision cell at an offset from JUMP_BASE, 0x0030 + (i << 8) + (j << 1) (43_jump_expander.md rule R94). -/
def decisionRow (w : Nat) : Option Instr :=
  if w &&& 0xF8F1 = 0x0030 ∧ 1 ≤ w >>> 8 then decisionRows[(w >>> 8 - 1) * 8 + (w >>> 1) % 8]? else none

/-- The selector row of a selector value (30_encoding.md rule R45). -/
def selectorRow (v w : Nat) : Instr :=
  match v with
  | 1 => .sel1 w
  | 2 => .sel2 w
  | 3 => .sel3 w
  | 4 => .sel4 w
  | 5 => .sel5 w
  | 6 => .sel6 w
  | 7 => .sel7 w
  | _ => .sel0 w

/-- The row of a single bit of the condition nibble (30_encoding.md rule R44). -/
def conditionRow (w : Nat) : Option Instr :=
  match w with
  | 1 => some (.cond0 w)
  | 2 => some (.cond1 w)
  | 4 => some (.cond2 w)
  | 8 => some (.cond3 w)
  | _ => none

/-- The row of an ALU code (30_encoding.md rule R48). -/
def aluRow (v w : Nat) : Instr :=
  match v with
  | 1 => .aluShift w
  | 2 => .aluAdd w
  | 3 => .aluSub w
  | 4 => .aluInv w
  | 5 => .aluXor w
  | 6 => .aluOr w
  | 7 => .aluAnd w
  | _ => .aluNop w

/-- An 8-bit pattern: one bit of the condition nibble, the step field (R41), or else the condition nibble. -/
def byteRow (w : Nat) : Instr :=
  match conditionRow w with
  | some i => i
  | none => if w % 16 = 0 then .magStep w else .magCond w

/-- A 16-bit pattern: a decision cell, any other address of the pattern of JDEC, a selector value alone, one bit of the
condition nibble alone, an address that ENCODE produces (bits 10:9 zero), or else an address to DECODE. -/
def halfRow (w : Nat) : Instr :=
  match (decisionRow w).or (conditionRow w) with
  | some i => i
  | none =>
    if w &&& 0x00F1 = 0x0030 then .jdec
    else if w &&& 0xF8FF = 0 ∧ w ≠ 0 then selectorRow (w >>> 8) w
    else if w &&& 0x0600 = 0 then
      .encode (w / 4096 % 16) (w / 2048 % 2) (w / 256 % 2) (w / 16 % 16) (w % 16)
    else .decode w

/-- A 24-bit pattern: an ALU code alone at the default place of ALU_OP (the masks of the table), or else a control word to
CWUNPACK. -/
def wordRow (w : Nat) : Instr :=
  if w &&& 0xFFF8FF = 0 ∧ w ≠ 0 then aluRow (w >>> 8) w else .cwunpack w

/-! ## The decoder -/

/-- The instruction of a call code and operand bytes. -/
def decodeCall (code : Nat) (operands : Frame) : Except FrameError Instr :=
  match operandsOf operands with
  | none => .error (.badOperands code)
  | some vs =>
    match rebuild code vs with
    | some i => .ok i
    | none => if code < tableRows.length then .error (.badOperands code) else .error (.unknownCode code)

/-- The decoder: total on any frame, rejecting by name. -/
def decode : Frame → Except FrameError Instr
  | [] => .error .empty
  | [b0] => .ok (byteRow b0.toNat)
  | [b0, b1] => .ok (halfRow (leNat [b0, b1]))
  | [b0, b1, b2] => .ok (wordRow (leNat [b0, b1, b2]))
  | b0 :: b1 :: b2 :: b3 :: operands => decodeCall (leNat [b0, b1, b2, b3]) operands

/-- The frame of a table word of `nbits` bits: its bytes, least significant first. -/
def tableFrame (nbits w : Nat) : Frame := leBytes ((nbits + 7) / 8) w

/-- What the decoder reads from a table word of `nbits` bits (log 3). -/
def decodeTableWord (nbits w : Nat) : Option Instr :=
  match decode (tableFrame nbits w) with
  | .ok i => some i
  | .error _ => none

/-! ## The encoder -/

/-- The row number of an instruction in spec/opcode_table.json (log 2). -/
def Instr.code : Instr → Nat
  | .encode _ _ _ _ _ => 0
  | .decode _ => 1
  | .encodej _ _ _ => 2
  | .decodej _ => 3
  | .lanebyte _ _ => 4
  | .lanejoin _ _ _ => 5
  | .cwpack _ => 6
  | .cwunpack _ => 7
  | .place _ _ _ => 8
  | .imgread _ _ => 9
  | .emit _ _ => 10
  | .expandFixed _ _ _ _ _ _ => 11
  | .expandWild _ _ _ _ _ => 12
  | .expandTable => 13
  | .jseq => 14
  | .jdec => 15
  | .validate => 16
  | .generate => 17
  | .lookup _ => 18
  | .formatMaG _ => 19
  | .formatMaJ _ => 20
  | .formatCw _ => 21
  | .magOpc _ => 22
  | .magAm _ => 23
  | .magRsv _ => 24
  | .magPf _ => 25
  | .magStep _ => 26
  | .magCond _ => 27
  | .majSel _ => 28
  | .cond0 _ => 29
  | .cond1 _ => 30
  | .cond2 _ => 31
  | .cond3 _ => 32
  | .sel0 _ => 33
  | .sel1 _ => 34
  | .sel2 _ => 35
  | .sel3 _ => 36
  | .sel4 _ => 37
  | .sel5 _ => 38
  | .sel6 _ => 39
  | .sel7 _ => 40
  | .cwNextStep _ => 41
  | .cwLdAddrHi _ => 42
  | .cwLdAddrLo _ => 43
  | .cwMemOe _ => 44
  | .cwMemWe _ => 45
  | .cwLdIr _ => 46
  | .cwLdA _ => 47
  | .cwLdB _ => 48
  | .cwLdRes _ => 49
  | .cwResOe _ => 50
  | .cwAluOp _ => 51
  | .cwLdPcHi _ => 52
  | .cwLdPcLo _ => 53
  | .cwPcHiOe _ => 54
  | .cwPcLoOe _ => 55
  | .cwIncPc _ => 56
  | .cwLdIo _ => 57
  | .cwIoOe _ => 58
  | .cwIoWe _ => 59
  | .aluNop _ => 60
  | .aluShift _ => 61
  | .aluAdd _ => 62
  | .aluSub _ => 63
  | .aluInv _ => 64
  | .aluXor _ => 65
  | .aluOr _ => 66
  | .aluAnd _ => 67
  | .jdecI1J0 => 68
  | .jdecI1J1 => 69
  | .jdecI1J2 => 70
  | .jdecI1J3 => 71
  | .jdecI1J4 => 72
  | .jdecI1J5 => 73
  | .jdecI1J6 => 74
  | .jdecI1J7 => 75
  | .jdecI2J0 => 76
  | .jdecI2J1 => 77
  | .jdecI2J2 => 78
  | .jdecI2J3 => 79
  | .jdecI2J4 => 80
  | .jdecI2J5 => 81
  | .jdecI2J6 => 82
  | .jdecI2J7 => 83
  | .jdecI3J0 => 84
  | .jdecI3J1 => 85
  | .jdecI3J2 => 86
  | .jdecI3J3 => 87
  | .jdecI3J4 => 88
  | .jdecI3J5 => 89
  | .jdecI3J6 => 90
  | .jdecI3J7 => 91
  | .jdecI4J0 => 92
  | .jdecI4J1 => 93
  | .jdecI4J2 => 94
  | .jdecI4J3 => 95
  | .jdecI4J4 => 96
  | .jdecI4J5 => 97
  | .jdecI4J6 => 98
  | .jdecI4J7 => 99
  | .jdecI5J0 => 100
  | .jdecI5J1 => 101
  | .jdecI5J2 => 102
  | .jdecI5J3 => 103
  | .jdecI5J4 => 104
  | .jdecI5J5 => 105
  | .jdecI5J6 => 106
  | .jdecI5J7 => 107
  | .jdecI6J0 => 108
  | .jdecI6J1 => 109
  | .jdecI6J2 => 110
  | .jdecI6J3 => 111
  | .jdecI6J4 => 112
  | .jdecI6J5 => 113
  | .jdecI6J6 => 114
  | .jdecI6J7 => 115
  | .jdecI7J0 => 116
  | .jdecI7J1 => 117
  | .jdecI7J2 => 118
  | .jdecI7J3 => 119
  | .jdecI7J4 => 120
  | .jdecI7J5 => 121
  | .jdecI7J6 => 122
  | .jdecI7J7 => 123

/-- The encoder: the call frame of an instruction. -/
def encode (i : Instr) : Frame := leBytes 4 i.code ++ i.operands.flatMap (leBytes 8)

end Sys2Proof
end

