-- ==== Sys2Proof/Machine/Flags.lean ====
section
/-! DEFINITION. The condition nibble, the jump-test selector, the flag pattern and the branch decision
(30_encoding.md rules R44, R45, R48; 43_jump_expander.md rules R94, R95). The block computes no flag of its own
(10_state.md rule R13): these are readings of address bits. -/

namespace Sys2Proof.Machine

/-- The bit of the condition nibble that holds a status bit (30_encoding.md rule R44). -/
def statusIndex : StatusBit → Nat
  | .interruptPending => 0
  | .carry => 1
  | .negative => 2
  | .zero => 3

/-- A status bit of an address: the condition nibble is address bits 3:0, so its bit k is address bit k (R41, R44). -/
def statusOf (b : StatusBit) (a : Nat) : Bool := bitOf a (statusIndex b)

/-- The selector of a 3-bit number. -/
def JumpSelector.ofNat (n : Nat) : JumpSelector := ⟨BitVec.ofNat 3 n⟩

/-- The flag pattern of a 3-bit number. -/
def FlagPattern.ofNat (n : Nat) : FlagPattern := ⟨BitVec.ofNat 3 n⟩

/-- The variant tests carry: bit 0 of the selector (R45). -/
def JumpSelector.testsCarry (i : JumpSelector) : Bool := i.bits.getLsbD 0
/-- The variant tests negative: bit 1 of the selector (R45). -/
def JumpSelector.testsNegative (i : JumpSelector) : Bool := i.bits.getLsbD 1
/-- The variant tests zero: bit 2 of the selector (R45). -/
def JumpSelector.testsZero (i : JumpSelector) : Bool := i.bits.getLsbD 2

/-- Carry is set: bit 0 of the flag pattern (R45). -/
def FlagPattern.carry (j : FlagPattern) : Bool := j.bits.getLsbD 0
/-- Negative is set: bit 1 of the flag pattern (R45). -/
def FlagPattern.negative (j : FlagPattern) : Bool := j.bits.getLsbD 1
/-- Zero is set: bit 2 of the flag pattern (R45). -/
def FlagPattern.zero (j : FlagPattern) : Bool := j.bits.getLsbD 2

/-- The branch decision `(i AND j) ≠ 0` (43_jump_expander.md rule R94). -/
def decision (i : JumpSelector) (j : FlagPattern) : Bool := (i.bits &&& j.bits) != 0

/-- The code of an ALU operation (30_encoding.md rule R48). -/
def aluCode : AluOp → Nat
  | .nop => 0
  | .shift => 1
  | .add => 2
  | .sub => 3
  | .inv => 4
  | .xor => 5
  | .or => 6
  | .and => 7

end Sys2Proof.Machine
end

