-- ==== Sys2Proof/Machine/Operands.lean ====
section
/-! DEFINITION. The operand forms of the passes: raw elements read as entries (30_encoding.md rules R52, R53;
42_table_expansion.md rule R86). -/

namespace Sys2Proof.Machine

/-- The condition part of an Entry: a wildcard or one nibble value (R52). -/
inductive CondPattern where
  | any
  | only (n : Nat)
  deriving DecidableEq, Repr

/-- An Entry in its raw form: the six components, unbounded naturals (R52). -/
structure Entry where
  opc : Nat
  am : Nat
  pf : Nat
  step : Nat
  cond : CondPattern
  cw : Nat
  deriving DecidableEq, Repr

/-- A TemplateEntry in its raw form (R53). -/
structure TemplateEntry where
  taddr : Nat
  cw : Nat
  deriving DecidableEq, Repr

/-- Reads an element of TABLE as an Entry: exactly the six components, each a natural number, `cond` being `any` or
`only(n)` (R52, R86, 44_generate_and_lookup.md rule R100). -/
def parseEntry : RawElement → Option Entry
  | [.nat opc, .nat am, .nat pf, .nat step, .any, .nat cw] => some ⟨opc, am, pf, step, .any, cw⟩
  | [.nat opc, .nat am, .nat pf, .nat step, .only n, .nat cw] => some ⟨opc, am, pf, step, .only n, cw⟩
  | _ => none

/-- Reads an element of JUMP_TEMPLATE as a TemplateEntry: exactly the two components, each a natural number (R53, R100). -/
def parseTemplate : RawElement → Option TemplateEntry
  | [.nat taddr, .nat cw] => some ⟨taddr, cw⟩
  | _ => none

/-- The element that reads as an Entry. -/
def Entry.raw (e : Entry) : RawElement :=
  match e.cond with
  | .any => [.nat e.opc, .nat e.am, .nat e.pf, .nat e.step, .any, .nat e.cw]
  | .only n => [.nat e.opc, .nat e.am, .nat e.pf, .nat e.step, .only n, .nat e.cw]

/-- The element that reads as a TemplateEntry. -/
def TemplateEntry.raw (t : TemplateEntry) : RawElement := [.nat t.taddr, .nat t.cw]

/-- FieldOverlap of a single operand or parameter (60_exceptions.md rule R111): the value unreduced. -/
def overlap (o : OperandName) (v : Nat) : SpecFault := .fieldOverlap (.operand o) (.num v)

/-- FILL[c] (00_scope.md rule R6). -/
def Params.fill (p : Params) : Nat → Nat
  | 0 => p.fill0
  | 1 => p.fill1
  | _ => p.fill2

/-- DEC_TADDR, the template-step address of the decision step (43_jump_expander.md): JUMP_BASE + (DECISION_STEP << 4). -/
def Params.decTaddr (p : Params) : Nat := p.jumpBase + (Config.decisionStep <<< 4)

end Sys2Proof.Machine
end

