-- ==== Sys2Proof/Machine/Ops.lean ====
section
/-! DEFINITION. The named operations over the block and the state: the image store and its accessors, PLACE, the control-word lanes,
EMIT, loops with a fault, the read-out of an image, and the one way a fault of the spec is taken. -/

namespace Sys2Proof.Machine

/-! ## The image store (10_state.md R16, R17, R21; 20_memory.md R25) -/

/-- The written byte at an address, `none` where the cell is `unwritten` (10_state.md R17). -/
def Memory.read : List Host.Cell → Nat → Option Byte
  | [], _ => none
  | (b, v) :: m, a => if a = b then some v else Memory.read m a

/-- Writes one cell, keeping the addresses strictly rising. -/
def Memory.write : List Host.Cell → Nat → Byte → List Host.Cell
  | [], a, v => [(a, v)]
  | (b, w) :: m, a, v =>
    if a < b then (a, v) :: (b, w) :: m
    else if a = b then (a, v) :: m
    else (b, w) :: Memory.write m a v

/-- The canonical form of an image: addresses strictly rising and below 65536. An unlisted address is `unwritten`, which no
listed byte is, so equal images are equal lists. -/
def Memory.wf : List Host.Cell → Bool
  | [] => true
  | [(a, _)] => decide (a < Config.imageSize)
  | (a, _) :: (b, v) :: m => decide (a < b) && Memory.wf ((b, v) :: m)

/-- Image c of the block. -/
def Block.image (b : Block) : Nat → List Host.Cell
  | 0 => b.img0
  | 1 => b.img1
  | _ => b.img2

/-- `IMG[c][a]`: a byte, or `none` for `unwritten` (10_state.md R16, R17). -/
def Block.cell (b : Block) (c a : Nat) : Option Byte := Memory.read (b.image c) a

/-- `IMG[c][a] <- v`: one cell and nothing else (20_memory.md R27). -/
def Block.setCell (b : Block) (c a : Nat) (v : Byte) : Block :=
  match c with
  | 0 => { b with img0 := Memory.write b.img0 a v }
  | 1 => { b with img1 := Memory.write b.img1 a v }
  | _ => { b with img2 := Memory.write b.img2 a v }

/-- `IMGF[c][a]`: the written byte, or FILL[c] at a cell nothing wrote (10_state.md R21). -/
def Block.finalByte (p : Params) (b : Block) (c a : Nat) : Nat :=
  match b.cell c a with
  | some v => v.toNat
  | none => p.fill c

/-- Image c as delivered by a Finished run: the 65536 bytes in address order (44_generate_and_lookup.md R104). -/
def State.finishedImage (s : State) (c : Nat) : List Nat :=
  (List.range Config.imageSize).map (fun a => s.toBlock.finalByte s.params c a)

/-- The three images are in canonical form. -/
def Block.memoryWf (b : Block) : Bool := Memory.wf b.img0 && Memory.wf b.img1 && Memory.wf b.img2

/-! ## PLACE (20_memory.md R27, R28)

Every operation that places takes the parameters as its argument `p` (10_state.md R14) and changes the block alone. -/

/-- An open component of a rejection rule matches anything. -/
def componentMatches (o : Option Nat) (v : Nat) : Bool :=
  match o with
  | none => true
  | some w => w == v

/-- A rejection rule matches a placement (log 9). -/
def RejectRule.hits (r : RejectRule) (c a v k : Nat) : Bool :=
  componentMatches r.chip c && componentMatches r.addr a && componentMatches r.value v && componentMatches r.count k

/-- PlaceOK(c, a, v, k): the medium accepts the placement (00_scope.md R6, 20_memory.md R28). -/
def Params.placeOK (p : Params) (c a v k : Nat) : Bool := !(p.rejects.any (fun r => r.hits c a v k))

/-- Appends one record to DIAG (00_scope.md R8, 10_state.md R18). -/
def Block.log (b : Block) (r : WriteTargetFailure) : Block := { b with diag := b.diag ++ [r] }

/-- One more PLACE call has been made in this run (R27). -/
def Block.countPlacement (b : Block) : Block := { b with placed := b.placed + 1 }

/-- PLACE(a, c, v) (R27): out-of-range operands raise FieldOverlap("place", (a, c, v)); otherwise the byte is stored, or,
where the medium rejects it, a WriteTargetFailure is appended to DIAG and the cell keeps its value (R28). -/
def place (p : Params) (a c v : Nat) (b : Block) : Except SpecFault Block :=
  if a < Config.imageSize ∧ c < Config.chips ∧ v < Config.laneLimit then
    if p.placeOK c a v b.placed then
      .ok (b.setCell c a (BitVec.ofNat 8 v)).countPlacement
    else
      .ok (b.log ⟨a, c⟩).countPlacement
  else .error (.fieldOverlap (.operand .place) (.triple a c v))

/-! ## Lanes of a control word (41_control_word_codec.md R70, R71) -/

/-- LANEBYTE(w, c) (R70). -/
def laneByte (w c : Nat) : Except SpecFault Nat :=
  if Config.containerLimit ≤ w then .error (overlap .cw w)
  else if Config.chips ≤ c then .error (overlap .lane c)
  else .ok ((w >>> (8 * c)) &&& 0xFF)

/-- LANEJOIN(b0, b1, b2) (R71). -/
def laneJoin (b0 b1 b2 : Nat) : Except SpecFault Nat :=
  if b0 < Config.laneLimit ∧ b1 < Config.laneLimit ∧ b2 < Config.laneLimit then
    .ok (b0 ||| (b1 <<< 8) ||| (b2 <<< 16))
  else .error (.fieldOverlap (.operand .lanebyte) (.triple b0 b1 b2))

/-! ## Sequences of placements -/

/-- How a sequence of placements ended: to its end, at a raise (00_scope.md R8), or at an element that is not
form-conforming, on which the spec gives a pass no effect (log 14). -/
inductive Ending where
  | completed
  | raised (f : SpecFault)
  | malformed (l : ListName)
  deriving DecidableEq, Repr

/-- Goes on with the next action unless the sequence has ended. -/
def andThen (r : Block × Ending) (next : Block → Block × Ending) : Block × Ending :=
  match r with
  | (b, .completed) => next b
  | (b, .raised f) => (b, .raised f)
  | (b, .malformed l) => (b, .malformed l)

/-- `for x in xs: body x`, ending at the first raise; what was placed before it stands (log 15). -/
def forEach {α : Type} (body : α → Block → Block × Ending) : List α → Block → Block × Ending
  | [], b => (b, .completed)
  | x :: xs, b => andThen (body x b) (forEach body xs)

/-- An action that is one PLACE of lane c of a control word at an address. -/
def placeLane (p : Params) (a w c : Nat) (b : Block) : Block × Ending :=
  match laneByte w c with
  | .error f => (b, .raised f)
  | .ok v =>
    match place p a c v b with
    | .error f => (b, .raised f)
    | .ok t => (t, .completed)

/-- EMIT(a, w): PLACE(a, c, LANEBYTE(w, c)) for c = 0, 1, 2 in that order (42_table_expansion.md R80). -/
def emit (p : Params) (a w : Nat) (b : Block) : Block × Ending := forEach (placeLane p a w) [0, 1, 2] b

/-! ## Results, faults, and the life of a run -/

/-- The call returns a value. -/
def State.returns (s : State) (r : Result) : State := { s with result := r }

/-- TAKING A FAULT OF THE SPEC in a call made alone: the fault is returned in place of a value and nothing else is touched
(60_exceptions.md R118, log 13). -/
def State.takeFault (s : State) (f : SpecFault) : State := s.returns (.fault f)

/-- The state with the block a call has changed. -/
def State.withBlock (s : State) (b : Block) : State := { s with toBlock := b }

/-- The start of a run (70_reset_and_hazards.md R130): every cell `unwritten`, DIAG empty, no placement made, nothing
returned yet. It is also the RETURN from a fatal fault, the only way on (60_exceptions.md R117). -/
def State.startRun (s : State) : State :=
  { s with toBlock := Block.reset, finished := false, result := .nothing }

/-- TAKING A FATAL FAULT: the run ends with outcome Fatal(fault), every cell `unwritten`, DIAG empty, no image delivered
(60_exceptions.md R116). No fault is kept beside the images (10_state.md R19): the outcome is what GENERATE returns. -/
def State.takeFatal (s : State) (f : SpecFault) : State := s.startRun.returns (.fatal f)

/-- A run that ended with outcome Finished: its block, and the outcome returned (44_generate_and_lookup.md R101). -/
def State.finish (s : State) (b : Block) : State := { s with toBlock := b, finished := true, result := .finished }

/-- The answer of a pure function to the host: its value, or the fault in its place (R118). -/
def answer (s : State) (r : Except SpecFault Result) : Host.Outcome State Fault Refusal :=
  match r with
  | .ok v => .next (s.returns v)
  | .error f => .next (s.takeFault f)

/-- The answer of a sequence of placements, called on a state, to the host. -/
def settle (s : State) (r : Block × Ending) : Host.Outcome State Fault Refusal :=
  match r with
  | (b, .completed) => .next ((s.withBlock b).returns .done)
  | (b, .raised f) => .next ((s.withBlock b).takeFault f)
  | (_, .malformed l) => .refused (.malformedElement l)

end Sys2Proof.Machine
end

