-- ==== Sys2Proof/Machine/AddressCodec.lean ====
section
/-! DEFINITION. The address codec: ENCODE, DECODE, ENCODEJ, DECODEJ (40_address_codec.md). -/

namespace Sys2Proof.Machine

/-- ENCODE (R60): the first operand out of range raises; otherwise shift and sum in naturals (30_encoding.md R51). -/
def encodeAddress (opc am pf step cond : Nat) : Except SpecFault Nat :=
  if 15 < opc then .error (overlap .opc opc)
  else if 1 < am then .error (overlap .am am)
  else if 1 < pf then .error (overlap .pf pf)
  else if 15 < step then .error (overlap .step step)
  else if 15 < cond then .error (overlap .cond cond)
  else .ok ((opc <<< 12) + (am <<< 11) + (pf <<< 8) + (step <<< 4) + cond)

/-- The six MA-G fields of a number (30_encoding.md R41). -/
def generalFields (a : Nat) : GeneralFields where
  opc := slice a 15 12
  am := slice a 11 11
  rsv := slice a 10 9
  pf := slice a 8 8
  step := slice a 7 4
  cond := slice a 3 0

/-- DECODE (R61): total on 16-bit addresses, the reserved field as found. -/
def decodeAddress (a : Nat) : Except SpecFault GeneralFields :=
  if 65535 < a then .error (overlap .address a) else .ok (generalFields a)

/-- ENCODABLE(a) (R65). -/
def encodable (a : Nat) : Bool := slice a 10 9 == 0

/-- ENCODEJ (R62): a template-step address with a selector or nibble bit set is rejected, never carried. -/
def encodeJump (taddr sel cond : Nat) : Except SpecFault Nat :=
  if 65535 < taddr then .error (overlap .taddr taddr)
  else if slice taddr 10 8 ≠ 0 ∨ slice taddr 3 0 ≠ 0 then .error (overlap .taddr taddr)
  else if 7 < sel then .error (overlap .sel sel)
  else if 15 < cond then .error (overlap .cond cond)
  else .ok (taddr + (sel <<< Config.selShift) + cond)

/-- The jump view of a number (30_encoding.md R42, R44, R45). -/
def jumpFields (a : Nat) : JumpFields where
  taddr := a &&& 0xF8F0
  sel := JumpSelector.ofNat (slice a 10 8)
  step := slice a 7 4
  cond := slice a 3 0
  flagpat := FlagPattern.ofNat (slice a 3 1)
  irq := slice a 0 0

/-- DECODEJ (R63). -/
def decodeJump (a : Nat) : Except SpecFault JumpFields :=
  if 65535 < a then .error (overlap .address a) else .ok (jumpFields a)

/-- The address lies in the jump family: `a[15:11] = JUMP_BASE[15:11]` (30_encoding.md R43). -/
def Params.inJumpFamily (p : Params) (a : Nat) : Bool := slice a 15 11 == slice p.jumpBase 15 11

/-- ENCODE as a call (R60, R118). -/
def execEncode (opc am pf step cond : Nat) (s : State) : Host.Outcome State Fault Refusal :=
  answer s ((encodeAddress opc am pf step cond).map Result.address)

/-- DECODE as a call (R61, R118). -/
def execDecode (a : Nat) (s : State) : Host.Outcome State Fault Refusal :=
  answer s ((decodeAddress a).map Result.general)

/-- ENCODEJ as a call (R62, R118). -/
def execEncodej (taddr sel cond : Nat) (s : State) : Host.Outcome State Fault Refusal :=
  answer s ((encodeJump taddr sel cond).map Result.address)

/-- DECODEJ as a call (R63, R118). -/
def execDecodej (a : Nat) (s : State) : Host.Outcome State Fault Refusal :=
  answer s ((decodeJump a).map Result.jump)

end Sys2Proof.Machine
end

