-- ==== Sys2Proof/Machine/AddressFields.lean ====
section
/-! DEFINITION. The rows of spec/opcode_table.json that are formats, fields, bits and field values of a microaddress
(30_encoding.md rules R41 to R45). They are no operations of the spec: each is the reading of an address that its rule
states, by the reading DECODE and DECODEJ give (log 4). -/

namespace Sys2Proof.Machine

/-- Reads something of a 16-bit address, with the operand check of DECODE and DECODEJ (40_address_codec.md R61, R63). -/
def readAddress (a : Nat) (value : Result) (s : State) : Host.Outcome State Fault Refusal :=
  answer s (if 65535 < a then .error (overlap .address a) else .ok value)

/-- Whether an address carries a selector value, and which flags that value tests (R42, R45). -/
def selectorReading (v a : Nat) : Result :=
  .selector (slice a 10 8 == v) (JumpSelector.ofNat v).testsCarry (JumpSelector.ofNat v).testsNegative
    (JumpSelector.ofNat v).testsZero

/-- Format MA-G (R41): the fields, and whether the address is read as MA-G (R43). -/
def execFormatMaG (a : Nat) (s : State) : Host.Outcome State Fault Refusal :=
  readAddress a (.formatG (!s.params.inJumpFamily a) (generalFields a)) s

/-- Format MA-J (R42): the fields, and whether the address is read as MA-J (R43). -/
def execFormatMaJ (a : Nat) (s : State) : Host.Outcome State Fault Refusal :=
  readAddress a (.formatJ (s.params.inJumpFamily a) (jumpFields a)) s

/-- Address field MA-G.opc, bits 15:12 (R41). -/
def execMagOpc (a : Nat) (s : State) : Host.Outcome State Fault Refusal :=
  readAddress a (.field (generalFields a).opc) s

/-- Address field MA-G.am, bits 11 (R41). -/
def execMagAm (a : Nat) (s : State) : Host.Outcome State Fault Refusal :=
  readAddress a (.field (generalFields a).am) s

/-- Address field MA-G.rsv, bits 10:9 (R41). -/
def execMagRsv (a : Nat) (s : State) : Host.Outcome State Fault Refusal :=
  readAddress a (.field (generalFields a).rsv) s

/-- Address field MA-G.pf, bits 8 (R41). -/
def execMagPf (a : Nat) (s : State) : Host.Outcome State Fault Refusal :=
  readAddress a (.field (generalFields a).pf) s

/-- Address field MA-G.step, bits 7:4 (R41). -/
def execMagStep (a : Nat) (s : State) : Host.Outcome State Fault Refusal :=
  readAddress a (.field (generalFields a).step) s

/-- Address field MA-G.cond, bits 3:0 (R41). -/
def execMagCond (a : Nat) (s : State) : Host.Outcome State Fault Refusal :=
  readAddress a (.field (generalFields a).cond) s

/-- Address field MA-J.sel, bits 10:8 (R42). -/
def execMajSel (a : Nat) (s : State) : Host.Outcome State Fault Refusal :=
  readAddress a (.field (jumpFields a).sel.bits.toNat) s

/-- Condition nibble bit cond[0] (R44). -/
def execCond0 (a : Nat) (s : State) : Host.Outcome State Fault Refusal :=
  readAddress a (.status .interruptPending (statusOf .interruptPending a)) s

/-- Condition nibble bit cond[1] (R44). -/
def execCond1 (a : Nat) (s : State) : Host.Outcome State Fault Refusal :=
  readAddress a (.status .carry (statusOf .carry a)) s

/-- Condition nibble bit cond[2] (R44). -/
def execCond2 (a : Nat) (s : State) : Host.Outcome State Fault Refusal :=
  readAddress a (.status .negative (statusOf .negative a)) s

/-- Condition nibble bit cond[3] (R44). -/
def execCond3 (a : Nat) (s : State) : Host.Outcome State Fault Refusal :=
  readAddress a (.status .zero (statusOf .zero a)) s

/-- Selector value 0 (R45). -/
def execSel0 (a : Nat) (s : State) : Host.Outcome State Fault Refusal := readAddress a (selectorReading 0 a) s

/-- Selector value 1 (R45). -/
def execSel1 (a : Nat) (s : State) : Host.Outcome State Fault Refusal := readAddress a (selectorReading 1 a) s

/-- Selector value 2 (R45). -/
def execSel2 (a : Nat) (s : State) : Host.Outcome State Fault Refusal := readAddress a (selectorReading 2 a) s

/-- Selector value 3 (R45). -/
def execSel3 (a : Nat) (s : State) : Host.Outcome State Fault Refusal := readAddress a (selectorReading 3 a) s

/-- Selector value 4 (R45). -/
def execSel4 (a : Nat) (s : State) : Host.Outcome State Fault Refusal := readAddress a (selectorReading 4 a) s

/-- Selector value 5 (R45). -/
def execSel5 (a : Nat) (s : State) : Host.Outcome State Fault Refusal := readAddress a (selectorReading 5 a) s

/-- Selector value 6 (R45). -/
def execSel6 (a : Nat) (s : State) : Host.Outcome State Fault Refusal := readAddress a (selectorReading 6 a) s

/-- Selector value 7 (R45). -/
def execSel7 (a : Nat) (s : State) : Host.Outcome State Fault Refusal := readAddress a (selectorReading 7 a) s

end Sys2Proof.Machine
end

