-- ==== Sys2Proof/Machine/ControlWordCodec.lean ====
section
/-! DEFINITION. The control-word codec: LANEBYTE, LANEJOIN, CWPACK, CWUNPACK (41_control_word_codec.md). -/

namespace Sys2Proof.Machine

/-- The loop of CWPACK (R73) over the remaining fields, with the sum so far. DESIGN CHOICE under a layout that breaks
30_encoding.md R47 (log 29): the terms are added all the same, so fields that share a bit carry and the sum can exceed 24
bits. -/
def packFields (L : Layout) (r : CwRecord) : List CwField → Nat → Except SpecFault Nat
  | [], w => .ok w
  | f :: fs, w =>
    if r.get f < 2 ^ f.width then packFields L r fs (w + (r.get f <<< L.lo f))
    else .error (.fieldOverlap (.field f) (.num (r.get f)))

/-- CWPACK under a layout (R73): every field in row order, the first value outside its width raises. What it answers under a
layout that VALIDATE rejects is the model's choice (log 29). -/
def packWord (L : Layout) (r : CwRecord) : Except SpecFault Nat := packFields L r rowOrder 0

/-- The record of a word's fields under a layout (R74). DESIGN CHOICE under a layout that breaks 30_encoding.md R47 (log 29):
each field is sliced where the layout puts it, so a field in lane 3 reads container bits 31:24. -/
def wordSignals (L : Layout) (w : Nat) : CwRecord := CwRecord.build (fun f => slice w (L.hi f) (L.lo f))

/-- CWUNPACK under a layout (R74); container bits 31:24 are not read under any valid layout (R76). What it reads under a
layout that VALIDATE rejects is the model's choice (log 29). -/
def unpackWord (L : Layout) (w : Nat) : Except SpecFault CwRecord :=
  if Config.containerLimit ≤ w then .error (overlap .cw w) else .ok (wordSignals L w)

/-- LANEBYTE as a call (R70, R118). -/
def execLanebyte (w c : Nat) (s : State) : Host.Outcome State Fault Refusal :=
  answer s ((laneByte w c).map Result.laneByte)

/-- LANEJOIN as a call (R71, R118). -/
def execLanejoin (b0 b1 b2 : Nat) (s : State) : Host.Outcome State Fault Refusal :=
  answer s ((laneJoin b0 b1 b2).map Result.word)

/-- CWPACK as a call (R73, R118), under the parameter CWL. -/
def execCwpack (r : CwRecord) (s : State) : Host.Outcome State Fault Refusal :=
  answer s ((packWord s.params.cwl r).map Result.word)

/-- CWUNPACK as a call (R74, R118), under the parameter CWL. -/
def execCwunpack (w : Nat) (s : State) : Host.Outcome State Fault Refusal :=
  answer s ((unpackWord s.params.cwl w).map Result.signals)

end Sys2Proof.Machine
end

