-- ==== Sys2Proof/Machine/ControlFields.lean ====
section
/-! DEFINITION. The rows of spec/opcode_table.json that are the format, the fields and the ALU codes of a control word
(30_encoding.md rules R46 to R50). They are no operations of the spec: each is the reading of a control word that its rule
states, by the reading CWUNPACK gives under the parameter CWL (log 4). -/

namespace Sys2Proof.Machine

/-- Reads something of a control word, with the operand check of CWUNPACK (41_control_word_codec.md R74). -/
def readWord (w : Nat) (value : Result) (s : State) : Host.Outcome State Fault Refusal :=
  answer s (if Config.containerLimit ≤ w then .error (overlap .cw w) else .ok value)

/-- One field of a control word under a layout (R47). DESIGN CHOICE under a layout that breaks R47 (log 29): the bits where
the layout puts the field, whatever they are. -/
def fieldOf (L : Layout) (f : CwField) (w : Nat) : Nat := slice w (L.hi f) (L.lo f)

/-- Whether a control word carries an ALU operation (R48). -/
def aluReading (L : Layout) (op : AluOp) (w : Nat) : Result := .alu op (fieldOf L .aluOp w == aluCode op)

/-- Format CW (R46): the bytes of the sequencer, datapath and control lanes, by the lane index the layout gives each. DESIGN
CHOICE under a layout that breaks R47 (log 29): a lane index of 3 or more raises LANEBYTE's FieldOverlap, and two named
lanes may return one byte. -/
def execFormatCw (w : Nat) (s : State) : Host.Outcome State Fault Refusal :=
  answer s do
    let q ← laneByte w (s.params.cwl.laneOf .sequencer)
    let d ← laneByte w (s.params.cwl.laneOf .datapath)
    let c ← laneByte w (s.params.cwl.laneOf .control)
    return .lanes q d c

/-- Control-word field NEXT_STEP (R47). -/
def execCwNextStep (w : Nat) (s : State) : Host.Outcome State Fault Refusal :=
  readWord w (.field (fieldOf s.params.cwl .nextStep w)) s

/-- Control-word field LD_ADDR_HI (R47). -/
def execCwLdAddrHi (w : Nat) (s : State) : Host.Outcome State Fault Refusal :=
  readWord w (.field (fieldOf s.params.cwl .ldAddrHi w)) s

/-- Control-word field LD_ADDR_LO (R47). -/
def execCwLdAddrLo (w : Nat) (s : State) : Host.Outcome State Fault Refusal :=
  readWord w (.field (fieldOf s.params.cwl .ldAddrLo w)) s

/-- Control-word field MEM_OE (R47). -/
def execCwMemOe (w : Nat) (s : State) : Host.Outcome State Fault Refusal :=
  readWord w (.field (fieldOf s.params.cwl .memOe w)) s

/-- Control-word field MEM_WE (R47). -/
def execCwMemWe (w : Nat) (s : State) : Host.Outcome State Fault Refusal :=
  readWord w (.field (fieldOf s.params.cwl .memWe w)) s

/-- Control-word field LD_IR (R47). -/
def execCwLdIr (w : Nat) (s : State) : Host.Outcome State Fault Refusal :=
  readWord w (.field (fieldOf s.params.cwl .ldIr w)) s

/-- Control-word field LD_A (R47). -/
def execCwLdA (w : Nat) (s : State) : Host.Outcome State Fault Refusal :=
  readWord w (.field (fieldOf s.params.cwl .ldA w)) s

/-- Control-word field LD_B (R47). -/
def execCwLdB (w : Nat) (s : State) : Host.Outcome State Fault Refusal :=
  readWord w (.field (fieldOf s.params.cwl .ldB w)) s

/-- Control-word field LD_RES (R47). -/
def execCwLdRes (w : Nat) (s : State) : Host.Outcome State Fault Refusal :=
  readWord w (.field (fieldOf s.params.cwl .ldRes w)) s

/-- Control-word field RES_OE (R47). -/
def execCwResOe (w : Nat) (s : State) : Host.Outcome State Fault Refusal :=
  readWord w (.field (fieldOf s.params.cwl .resOe w)) s

/-- Control-word field ALU_OP (R47). -/
def execCwAluOp (w : Nat) (s : State) : Host.Outcome State Fault Refusal :=
  readWord w (.field (fieldOf s.params.cwl .aluOp w)) s

/-- Control-word field LD_PC_HI (R47). -/
def execCwLdPcHi (w : Nat) (s : State) : Host.Outcome State Fault Refusal :=
  readWord w (.field (fieldOf s.params.cwl .ldPcHi w)) s

/-- Control-word field LD_PC_LO (R47). -/
def execCwLdPcLo (w : Nat) (s : State) : Host.Outcome State Fault Refusal :=
  readWord w (.field (fieldOf s.params.cwl .ldPcLo w)) s

/-- Control-word field PC_HI_OE (R47). -/
def execCwPcHiOe (w : Nat) (s : State) : Host.Outcome State Fault Refusal :=
  readWord w (.field (fieldOf s.params.cwl .pcHiOe w)) s

/-- Control-word field PC_LO_OE (R47). -/
def execCwPcLoOe (w : Nat) (s : State) : Host.Outcome State Fault Refusal :=
  readWord w (.field (fieldOf s.params.cwl .pcLoOe w)) s

/-- Control-word field INC_PC (R47). -/
def execCwIncPc (w : Nat) (s : State) : Host.Outcome State Fault Refusal :=
  readWord w (.field (fieldOf s.params.cwl .incPc w)) s

/-- Control-word field LD_IO (R47). -/
def execCwLdIo (w : Nat) (s : State) : Host.Outcome State Fault Refusal :=
  readWord w (.field (fieldOf s.params.cwl .ldIo w)) s

/-- Control-word field IO_OE (R47). -/
def execCwIoOe (w : Nat) (s : State) : Host.Outcome State Fault Refusal :=
  readWord w (.field (fieldOf s.params.cwl .ioOe w)) s

/-- Control-word field IO_WE (R47). -/
def execCwIoWe (w : Nat) (s : State) : Host.Outcome State Fault Refusal :=
  readWord w (.field (fieldOf s.params.cwl .ioWe w)) s

/-- ALU code 0 (R48). -/
def execAluNop (w : Nat) (s : State) : Host.Outcome State Fault Refusal :=
  readWord w (aluReading s.params.cwl .nop w) s

/-- ALU code 1 (R48). -/
def execAluShift (w : Nat) (s : State) : Host.Outcome State Fault Refusal :=
  readWord w (aluReading s.params.cwl .shift w) s

/-- ALU code 2 (R48). -/
def execAluAdd (w : Nat) (s : State) : Host.Outcome State Fault Refusal :=
  readWord w (aluReading s.params.cwl .add w) s

/-- ALU code 3 (R48). -/
def execAluSub (w : Nat) (s : State) : Host.Outcome State Fault Refusal :=
  readWord w (aluReading s.params.cwl .sub w) s

/-- ALU code 4 (R48). -/
def execAluInv (w : Nat) (s : State) : Host.Outcome State Fault Refusal :=
  readWord w (aluReading s.params.cwl .inv w) s

/-- ALU code 5 (R48). -/
def execAluXor (w : Nat) (s : State) : Host.Outcome State Fault Refusal :=
  readWord w (aluReading s.params.cwl .xor w) s

/-- ALU code 6 (R48). -/
def execAluOr (w : Nat) (s : State) : Host.Outcome State Fault Refusal :=
  readWord w (aluReading s.params.cwl .or w) s

/-- ALU code 7 (R48). -/
def execAluAnd (w : Nat) (s : State) : Host.Outcome State Fault Refusal :=
  readWord w (aluReading s.params.cwl .and w) s

end Sys2Proof.Machine
end

