-- ==== Sys2Proof/Machine/TableExpansion.lean ====
section
/-! DEFINITION. Table expansion: EMIT, EXPAND.FIXED, EXPAND.WILD, EXPAND.TABLE (42_table_expansion.md). -/

namespace Sys2Proof.Machine

/-- The sixteen values of the condition nibble, ascending (R82). -/
def nibbles : List Nat := [0, 1, 2, 3, 4, 5, 6, 7, 8, 9, 10, 11, 12, 13, 14, 15]

/-- EMIT at the address ENCODE gives, or ENCODE's fault (R81, R82). -/
def emitEncoded (p : Params) (opc am pf step cw n : Nat) (b : Block) : Block × Ending :=
  match encodeAddress opc am pf step n with
  | .error f => (b, .raised f)
  | .ok a => emit p a cw b

/-- EXPAND.FIXED of an entry whose `cond` is `only(n)` (R81). -/
def expandFixed (p : Params) (opc am pf step n cw : Nat) (b : Block) : Block × Ending := emitEncoded p opc am pf step cw n b

/-- EXPAND.WILD of an entry whose `cond` is `any` (R82): one EMIT for each of the sixteen nibbles, ascending. -/
def expandWild (p : Params) (opc am pf step cw : Nat) (b : Block) : Block × Ending :=
  forEach (emitEncoded p opc am pf step cw) nibbles b

/-- The body of pass 1 for one entry (R83). -/
def expandEntry (p : Params) (e : Entry) (b : Block) : Block × Ending :=
  match e.cond with
  | .any => expandWild p e.opc e.am e.pf e.step e.cw b
  | .only n => expandFixed p e.opc e.am e.pf e.step n e.cw b

/-- The body of pass 1 for one raw element. -/
def expandElement (p : Params) (el : RawElement) (b : Block) : Block × Ending :=
  match parseEntry el with
  | none => (b, .malformed .table)
  | some e => expandEntry p e b

/-- EXPAND.TABLE, pass 1 (R83): the elements of TABLE in list order. -/
def expandTable (p : Params) (b : Block) : Block × Ending := forEach (expandElement p) p.table b

/-- EMIT as a call (R80). -/
def execEmit (a w : Nat) (s : State) : Host.Outcome State Fault Refusal := settle s (emit s.params a w s.toBlock)

/-- EXPAND.FIXED as a call (R81). -/
def execExpandFixed (opc am pf step n cw : Nat) (s : State) : Host.Outcome State Fault Refusal :=
  settle s (expandFixed s.params opc am pf step n cw s.toBlock)

/-- EXPAND.WILD as a call (R82). -/
def execExpandWild (opc am pf step cw : Nat) (s : State) : Host.Outcome State Fault Refusal :=
  settle s (expandWild s.params opc am pf step cw s.toBlock)

/-- EXPAND.TABLE as a call (R83). -/
def execExpandTable (s : State) : Host.Outcome State Fault Refusal := settle s (expandTable s.params s.toBlock)

end Sys2Proof.Machine
end

