-- ==== Sys2Proof/Machine/JumpExpander.lean ====
section
/-! DEFINITION. The conditional-jump expander: JSEQ and JDEC (43_jump_expander.md), and the 56 decision cells that
spec/opcode_table.json lists one by one. -/

namespace Sys2Proof.Machine

/-- The selector values the expander generates: 1 to 7, never 0 (00_scope.md R5, R91). -/
def selectors : List Nat := [1, 2, 3, 4, 5, 6, 7]

/-- The eight flag patterns (R94). -/
def patterns : List Nat := [0, 1, 2, 3, 4, 5, 6, 7]

/-- The innermost body of JSEQ (R90): a template entry at DEC_TADDR is passed over (R92). -/
def emitTemplate (p : Params) (i n : Nat) (t : TemplateEntry) (b : Block) : Block × Ending :=
  if t.taddr = p.decTaddr then (b, .completed)
  else
    match encodeJump t.taddr i n with
    | .error f => (b, .raised f)
    | .ok a => emit p a t.cw b

/-- The innermost body of JSEQ for one raw element. -/
def emitTemplateElement (p : Params) (i n : Nat) (el : RawElement) (b : Block) : Block × Ending :=
  match parseTemplate el with
  | none => (b, .malformed .jumpTemplate)
  | some t => emitTemplate p i n t b

/-- JSEQ, pass 2 (R90): for every selector 1 to 7, every nibble 0 to 15, every template entry in order. -/
def jseq (p : Params) (b : Block) : Block × Ending :=
  forEach (fun i => forEach (fun n => forEach (emitTemplateElement p i n) p.template) nibbles) selectors b

/-- The word JDEC gives the cell of a selector and a flag pattern (R94, R95). -/
def Params.decisionWord (p : Params) (i j : Nat) : Nat :=
  if decision (JumpSelector.ofNat i) (FlagPattern.ofNat j) then p.cwContinue else p.cwAbort

/-- The body of JDEC (R94): the cell at ENCODEJ(DEC_TADDR, i, j << 1), which is
JUMP_BASE + 0x0030 + (i << 8) + (j << 1) for every JUMP_BASE that VALIDATE passes. DESIGN CHOICE for another JUMP_BASE, in a
direct call (log 16): where DEC_TADDR has bits 10:8 and 3:0 zero (0xE010 gives 0xE040) the cell at that sum is written,
carry and all, and elsewhere ENCODEJ raises. -/
def emitDecision (p : Params) (i j : Nat) (b : Block) : Block × Ending :=
  match encodeJump p.decTaddr i (j <<< Config.flagpatShift) with
  | .error f => (b, .raised f)
  | .ok a => emit p a (p.decisionWord i j) b

/-- JDEC, pass 3 (R94): every selector 1 to 7 and every flag pattern 0 to 7. -/
def jdec (p : Params) (b : Block) : Block × Ending :=
  forEach (fun i => forEach (fun j => emitDecision p i j) patterns) selectors b

/-- JSEQ as a call (R90). -/
def execJseq (s : State) : Host.Outcome State Fault Refusal := settle s (jseq s.params s.toBlock)

/-- JDEC as a call (R94). -/
def execJdec (s : State) : Host.Outcome State Fault Refusal := settle s (jdec s.params s.toBlock)

/-! Each row JDEC.i.j of the table is the EMIT of JDEC's loop body at (i, j) (log 5). -/

/-- The decision cell of selector 1 and flag pattern 0 (R94). -/
def execJdecI1J0 (s : State) : Host.Outcome State Fault Refusal := 
  settle s (emitDecision s.params 1 0 s.toBlock)
/-- The decision cell of selector 1 and flag pattern 1 (R94). -/
def execJdecI1J1 (s : State) : Host.Outcome State Fault Refusal := 
  settle s (emitDecision s.params 1 1 s.toBlock)
/-- The decision cell of selector 1 and flag pattern 2 (R94). -/
def execJdecI1J2 (s : State) : Host.Outcome State Fault Refusal := 
  settle s (emitDecision s.params 1 2 s.toBlock)
/-- The decision cell of selector 1 and flag pattern 3 (R94). -/
def execJdecI1J3 (s : State) : Host.Outcome State Fault Refusal := 
  settle s (emitDecision s.params 1 3 s.toBlock)
/-- The decision cell of selector 1 and flag pattern 4 (R94). -/
def execJdecI1J4 (s : State) : Host.Outcome State Fault Refusal := 
  settle s (emitDecision s.params 1 4 s.toBlock)
/-- The decision cell of selector 1 and flag pattern 5 (R94). -/
def execJdecI1J5 (s : State) : Host.Outcome State Fault Refusal := 
  settle s (emitDecision s.params 1 5 s.toBlock)
/-- The decision cell of selector 1 and flag pattern 6 (R94). -/
def execJdecI1J6 (s : State) : Host.Outcome State Fault Refusal := 
  settle s (emitDecision s.params 1 6 s.toBlock)
/-- The decision cell of selector 1 and flag pattern 7 (R94). -/
def execJdecI1J7 (s : State) : Host.Outcome State Fault Refusal := 
  settle s (emitDecision s.params 1 7 s.toBlock)
/-- The decision cell of selector 2 and flag pattern 0 (R94). -/
def execJdecI2J0 (s : State) : Host.Outcome State Fault Refusal := 
  settle s (emitDecision s.params 2 0 s.toBlock)
/-- The decision cell of selector 2 and flag pattern 1 (R94). -/
def execJdecI2J1 (s : State) : Host.Outcome State Fault Refusal := 
  settle s (emitDecision s.params 2 1 s.toBlock)
/-- The decision cell of selector 2 and flag pattern 2 (R94). -/
def execJdecI2J2 (s : State) : Host.Outcome State Fault Refusal := 
  settle s (emitDecision s.params 2 2 s.toBlock)
/-- The decision cell of selector 2 and flag pattern 3 (R94). -/
def execJdecI2J3 (s : State) : Host.Outcome State Fault Refusal := 
  settle s (emitDecision s.params 2 3 s.toBlock)
/-- The decision cell of selector 2 and flag pattern 4 (R94). -/
def execJdecI2J4 (s : State) : Host.Outcome State Fault Refusal := 
  settle s (emitDecision s.params 2 4 s.toBlock)
/-- The decision cell of selector 2 and flag pattern 5 (R94). -/
def execJdecI2J5 (s : State) : Host.Outcome State Fault Refusal := 
  settle s (emitDecision s.params 2 5 s.toBlock)
/-- The decision cell of selector 2 and flag pattern 6 (R94). -/
def execJdecI2J6 (s : State) : Host.Outcome State Fault Refusal := 
  settle s (emitDecision s.params 2 6 s.toBlock)
/-- The decision cell of selector 2 and flag pattern 7 (R94). -/
def execJdecI2J7 (s : State) : Host.Outcome State Fault Refusal := 
  settle s (emitDecision s.params 2 7 s.toBlock)
/-- The decision cell of selector 3 and flag pattern 0 (R94). -/
def execJdecI3J0 (s : State) : Host.Outcome State Fault Refusal := 
  settle s (emitDecision s.params 3 0 s.toBlock)
/-- The decision cell of selector 3 and flag pattern 1 (R94). -/
def execJdecI3J1 (s : State) : Host.Outcome State Fault Refusal := 
  settle s (emitDecision s.params 3 1 s.toBlock)
/-- The decision cell of selector 3 and flag pattern 2 (R94). -/
def execJdecI3J2 (s : State) : Host.Outcome State Fault Refusal := 
  settle s (emitDecision s.params 3 2 s.toBlock)
/-- The decision cell of selector 3 and flag pattern 3 (R94). -/
def execJdecI3J3 (s : State) : Host.Outcome State Fault Refusal := 
  settle s (emitDecision s.params 3 3 s.toBlock)
/-- The decision cell of selector 3 and flag pattern 4 (R94). -/
def execJdecI3J4 (s : State) : Host.Outcome State Fault Refusal := 
  settle s (emitDecision s.params 3 4 s.toBlock)
/-- The decision cell of selector 3 and flag pattern 5 (R94). -/
def execJdecI3J5 (s : State) : Host.Outcome State Fault Refusal := 
  settle s (emitDecision s.params 3 5 s.toBlock)
/-- The decision cell of selector 3 and flag pattern 6 (R94). -/
def execJdecI3J6 (s : State) : Host.Outcome State Fault Refusal := 
  settle s (emitDecision s.params 3 6 s.toBlock)
/-- The decision cell of selector 3 and flag pattern 7 (R94). -/
def execJdecI3J7 (s : State) : Host.Outcome State Fault Refusal := 
  settle s (emitDecision s.params 3 7 s.toBlock)
/-- The decision cell of selector 4 and flag pattern 0 (R94). -/
def execJdecI4J0 (s : State) : Host.Outcome State Fault Refusal := 
  settle s (emitDecision s.params 4 0 s.toBlock)
/-- The decision cell of selector 4 and flag pattern 1 (R94). -/
def execJdecI4J1 (s : State) : Host.Outcome State Fault Refusal := 
  settle s (emitDecision s.params 4 1 s.toBlock)
/-- The decision cell of selector 4 and flag pattern 2 (R94). -/
def execJdecI4J2 (s : State) : Host.Outcome State Fault Refusal := 
  settle s (emitDecision s.params 4 2 s.toBlock)
/-- The decision cell of selector 4 and flag pattern 3 (R94). -/
def execJdecI4J3 (s : State) : Host.Outcome State Fault Refusal := 
  settle s (emitDecision s.params 4 3 s.toBlock)
/-- The decision cell of selector 4 and flag pattern 4 (R94). -/
def execJdecI4J4 (s : State) : Host.Outcome State Fault Refusal := 
  settle s (emitDecision s.params 4 4 s.toBlock)
/-- The decision cell of selector 4 and flag pattern 5 (R94). -/
def execJdecI4J5 (s : State) : Host.Outcome State Fault Refusal := 
  settle s (emitDecision s.params 4 5 s.toBlock)
/-- The decision cell of selector 4 and flag pattern 6 (R94). -/
def execJdecI4J6 (s : State) : Host.Outcome State Fault Refusal := 
  settle s (emitDecision s.params 4 6 s.toBlock)
/-- The decision cell of selector 4 and flag pattern 7 (R94). -/
def execJdecI4J7 (s : State) : Host.Outcome State Fault Refusal := 
  settle s (emitDecision s.params 4 7 s.toBlock)
/-- The decision cell of selector 5 and flag pattern 0 (R94). -/
def execJdecI5J0 (s : State) : Host.Outcome State Fault Refusal := 
  settle s (emitDecision s.params 5 0 s.toBlock)
/-- The decision cell of selector 5 and flag pattern 1 (R94). -/
def execJdecI5J1 (s : State) : Host.Outcome State Fault Refusal := 
  settle s (emitDecision s.params 5 1 s.toBlock)
/-- The decision cell of selector 5 and flag pattern 2 (R94). -/
def execJdecI5J2 (s : State) : Host.Outcome State Fault Refusal := 
  settle s (emitDecision s.params 5 2 s.toBlock)
/-- The decision cell of selector 5 and flag pattern 3 (R94). -/
def execJdecI5J3 (s : State) : Host.Outcome State Fault Refusal := 
  settle s (emitDecision s.params 5 3 s.toBlock)
/-- The decision cell of selector 5 and flag pattern 4 (R94). -/
def execJdecI5J4 (s : State) : Host.Outcome State Fault Refusal := 
  settle s (emitDecision s.params 5 4 s.toBlock)
/-- The decision cell of selector 5 and flag pattern 5 (R94). -/
def execJdecI5J5 (s : State) : Host.Outcome State Fault Refusal := 
  settle s (emitDecision s.params 5 5 s.toBlock)
/-- The decision cell of selector 5 and flag pattern 6 (R94). -/
def execJdecI5J6 (s : State) : Host.Outcome State Fault Refusal := 
  settle s (emitDecision s.params 5 6 s.toBlock)
/-- The decision cell of selector 5 and flag pattern 7 (R94). -/
def execJdecI5J7 (s : State) : Host.Outcome State Fault Refusal := 
  settle s (emitDecision s.params 5 7 s.toBlock)
/-- The decision cell of selector 6 and flag pattern 0 (R94). -/
def execJdecI6J0 (s : State) : Host.Outcome State Fault Refusal := 
  settle s (emitDecision s.params 6 0 s.toBlock)
/-- The decision cell of selector 6 and flag pattern 1 (R94). -/
def execJdecI6J1 (s : State) : Host.Outcome State Fault Refusal := 
  settle s (emitDecision s.params 6 1 s.toBlock)
/-- The decision cell of selector 6 and flag pattern 2 (R94). -/
def execJdecI6J2 (s : State) : Host.Outcome State Fault Refusal := 
  settle s (emitDecision s.params 6 2 s.toBlock)
/-- The decision cell of selector 6 and flag pattern 3 (R94). -/
def execJdecI6J3 (s : State) : Host.Outcome State Fault Refusal := 
  settle s (emitDecision s.params 6 3 s.toBlock)
/-- The decision cell of selector 6 and flag pattern 4 (R94). -/
def execJdecI6J4 (s : State) : Host.Outcome State Fault Refusal := 
  settle s (emitDecision s.params 6 4 s.toBlock)
/-- The decision cell of selector 6 and flag pattern 5 (R94). -/
def execJdecI6J5 (s : State) : Host.Outcome State Fault Refusal := 
  settle s (emitDecision s.params 6 5 s.toBlock)
/-- The decision cell of selector 6 and flag pattern 6 (R94). -/
def execJdecI6J6 (s : State) : Host.Outcome State Fault Refusal := 
  settle s (emitDecision s.params 6 6 s.toBlock)
/-- The decision cell of selector 6 and flag pattern 7 (R94). -/
def execJdecI6J7 (s : State) : Host.Outcome State Fault Refusal := 
  settle s (emitDecision s.params 6 7 s.toBlock)
/-- The decision cell of selector 7 and flag pattern 0 (R94). -/
def execJdecI7J0 (s : State) : Host.Outcome State Fault Refusal := 
  settle s (emitDecision s.params 7 0 s.toBlock)
/-- The decision cell of selector 7 and flag pattern 1 (R94). -/
def execJdecI7J1 (s : State) : Host.Outcome State Fault Refusal := 
  settle s (emitDecision s.params 7 1 s.toBlock)
/-- The decision cell of selector 7 and flag pattern 2 (R94). -/
def execJdecI7J2 (s : State) : Host.Outcome State Fault Refusal := 
  settle s (emitDecision s.params 7 2 s.toBlock)
/-- The decision cell of selector 7 and flag pattern 3 (R94). -/
def execJdecI7J3 (s : State) : Host.Outcome State Fault Refusal := 
  settle s (emitDecision s.params 7 3 s.toBlock)
/-- The decision cell of selector 7 and flag pattern 4 (R94). -/
def execJdecI7J4 (s : State) : Host.Outcome State Fault Refusal := 
  settle s (emitDecision s.params 7 4 s.toBlock)
/-- The decision cell of selector 7 and flag pattern 5 (R94). -/
def execJdecI7J5 (s : State) : Host.Outcome State Fault Refusal := 
  settle s (emitDecision s.params 7 5 s.toBlock)
/-- The decision cell of selector 7 and flag pattern 6 (R94). -/
def execJdecI7J6 (s : State) : Host.Outcome State Fault Refusal := 
  settle s (emitDecision s.params 7 6 s.toBlock)
/-- The decision cell of selector 7 and flag pattern 7 (R94). -/
def execJdecI7J7 (s : State) : Host.Outcome State Fault Refusal := 
  settle s (emitDecision s.params 7 7 s.toBlock)

end Sys2Proof.Machine
end

