-- ==== Sys2Proof/Machine/Generate.lean ====
section
/-! DEFINITION. The whole run and the read path: VALIDATE, GENERATE, LOOKUP (44_generate_and_lookup.md). -/

namespace Sys2Proof.Machine

/-- The first violation of a list of checks in written order (R100, 60_exceptions.md R115). -/
def firstViolation : List (Option SpecFault) → Option SpecFault
  | [] => none
  | none :: cs => firstViolation cs
  | some f :: _ => some f

/-- One range check: passes, or raises FieldOverlap(what, value). -/
def rangeCheck (ok : Bool) (what : What) (value : Nat) : Option SpecFault :=
  if ok then none else some (.fieldOverlap what (.num value))

/-- The checks of one element of TABLE (R100 step 2): its form, then opc, am, pf, step, cond, cw. -/
def checkTableElement (k : Nat) (el : RawElement) : Option SpecFault :=
  match parseEntry el with
  | none => some (.malformedEntry .table k)
  | some e =>
    firstViolation
      [ rangeCheck (e.opc ≤ 15) (.element .table k .opc) e.opc,
        rangeCheck (e.am ≤ 1) (.element .table k .am) e.am,
        rangeCheck (e.pf ≤ 1) (.element .table k .pf) e.pf,
        rangeCheck (e.step ≤ 15) (.element .table k .step) e.step,
        match e.cond with
        | .any => none
        | .only n => rangeCheck (n ≤ 15) (.element .table k .cond) n,
        rangeCheck (e.cw < Config.wordLimit) (.element .table k .cw) e.cw ]

/-- The checks of one element of JUMP_TEMPLATE (R100 step 3): its form, then taddr, cw. -/
def checkTemplateElement (k : Nat) (el : RawElement) : Option SpecFault :=
  match parseTemplate el with
  | none => some (.malformedEntry .jumpTemplate k)
  | some t =>
    firstViolation
      [ rangeCheck (t.taddr ≤ 65535 && (t.taddr &&& 0x070F) == 0) (.element .jumpTemplate k .taddr) t.taddr,
        rangeCheck (t.cw < Config.wordLimit) (.element .jumpTemplate k .cw) t.cw ]

/-- The elements of a list in order, numbered from k (R100). -/
def checkElements (check : Nat → RawElement → Option SpecFault) : Nat → List RawElement → Option SpecFault
  | _, [] => none
  | k, el :: els => firstViolation [check k el, checkElements check (k + 1) els]

/-- The layout check (R100 step 1): FieldOverlap("CWL", the first offending field) (log 17). -/
def checkLayout (L : Layout) : Option SpecFault :=
  match L.firstOffender with
  | none => none
  | some f => some (.fieldOverlap .layout (.field f))

/-- VALIDATE (R100): the first violation in written order, or none. -/
def validate (p : Params) : Option SpecFault :=
  firstViolation
    [ checkLayout p.cwl,
      checkElements checkTableElement 0 p.table,
      checkElements checkTemplateElement 0 p.template,
      rangeCheck (p.jumpBase ≤ 65535 && (p.jumpBase &&& 0x07FF) == 0) (.operand .jumpBase) p.jumpBase,
      rangeCheck (p.cwContinue < Config.wordLimit) (.operand .cwContinue) p.cwContinue,
      rangeCheck (p.cwAbort < Config.wordLimit) (.operand .cwAbort) p.cwAbort,
      if p.cwContinue = p.cwAbort then some (.malformedEntry .decisionWords 0) else none,
      rangeCheck (p.fill0 < Config.laneLimit) (.fill 0) p.fill0,
      rangeCheck (p.fill1 < Config.laneLimit) (.fill 1) p.fill1,
      rangeCheck (p.fill2 < Config.laneLimit) (.fill 2) p.fill2 ]

/-- The three passes in the order table, sequence, decision (R101). -/
def passes (p : Params) (b : Block) : Block × Ending := andThen (andThen (expandTable p b) (jseq p)) (jdec p)

/-- The run of GENERATE after its reset (R101): VALIDATE, then the passes. After a VALIDATE that passes no pass raises
(R81, R90, R94), so the last two arms are never taken. -/
def runGenerate (s : State) : Host.Outcome State Fault Refusal :=
  match validate s.params with
  | some f => .next (s.takeFatal f)
  | none =>
    match passes s.params s.toBlock with
    | (b, .completed) => .next (s.finish b)
    | (_, .raised f) => .next (s.takeFatal f)
    | (_, .malformed l) => .refused (.malformedElement l)

/-- VALIDATE as a call (R100): returns, or raises the first violation; no state is read or written but the parameters. -/
def execValidate (s : State) : Host.Outcome State Fault Refusal :=
  match validate s.params with
  | none => .next (s.returns .done)
  | some f => .next (s.takeFault f)

/-- GENERATE (R101): reset, VALIDATE, the three passes; outcome Finished or Fatal. -/
def execGenerate (s : State) : Host.Outcome State Fault Refusal := runGenerate s.startRun

/-- The control word of the finished images at an address (R102). -/
def lookupWord (p : Params) (b : Block) (a : Nat) : Except SpecFault Nat :=
  laneJoin (b.finalByte p 0 a) (b.finalByte p 1 a) (b.finalByte p 2 a)

/-- LOOKUP as a call (R102): the operand check, then the word of a Finished run's images; before the Finished outcome the
model refuses (20_memory.md R36). DEDUCED (log 19): the operand check comes first, also before a run has finished. -/
def execLookup (a : Nat) (s : State) : Host.Outcome State Fault Refusal :=
  if 65535 < a then .next (s.takeFault (overlap .address a))
  else if s.finished then answer s ((lookupWord s.params s.toBlock a).map Result.word)
  else .refused .readBeforeFinished

end Sys2Proof.Machine
end

