-- ==== Sys2Proof/Machine/Store.lean ====
section
/-! DEFINITION. PLACE and IMGREAD as calls (20_memory.md). -/

namespace Sys2Proof.Machine

/-- PLACE as a call (R27): available at any time (60_exceptions.md R122); log 20 for a call outside a run. -/
def execPlace (a c v : Nat) (s : State) : Host.Outcome State Fault Refusal :=
  match place s.params a c v s.toBlock with
  | .ok b => .next ((s.withBlock b).returns .done)
  | .error f => .next (s.takeFault f)

/-- IMGREAD as a call (R29): `IMGF[c][a]`, no side effect. Defined on the images of a finished run only; before that the
model refuses (R36). Outside the three spaces there is no cell to read (R25, log 18). -/
def execImgread (c a : Nat) (s : State) : Host.Outcome State Fault Refusal :=
  if c < Config.chips ∧ a < Config.imageSize then
    if s.finished then .next (s.returns (.imageByte (s.toBlock.finalByte s.params c a)))
    else .refused .readBeforeFinished
  else .fault (.noSuchCell c a)

end Sys2Proof.Machine
end

