-- ==== Sys2Proof/Machine/Dispatch.lean ====
section
/-! DEFINITION. One arm per row of spec/opcode_table.json, each one direct call of its meaning. -/

namespace Sys2Proof.Machine

def exec (i : Instr) (s : State) : Host.Outcome State Fault Refusal :=
  match i with
  | .encode opc am pf step cond => Sys2Proof.Machine.execEncode opc am pf step cond s
  | .decode a => Sys2Proof.Machine.execDecode a s
  | .encodej taddr sel cond => Sys2Proof.Machine.execEncodej taddr sel cond s
  | .decodej a => Sys2Proof.Machine.execDecodej a s
  | .lanebyte w c => Sys2Proof.Machine.execLanebyte w c s
  | .lanejoin b0 b1 b2 => Sys2Proof.Machine.execLanejoin b0 b1 b2 s
  | .cwpack r => Sys2Proof.Machine.execCwpack r s
  | .cwunpack w => Sys2Proof.Machine.execCwunpack w s
  | .place a c v => Sys2Proof.Machine.execPlace a c v s
  | .imgread c a => Sys2Proof.Machine.execImgread c a s
  | .emit a w => Sys2Proof.Machine.execEmit a w s
  | .expandFixed opc am pf step n cw => Sys2Proof.Machine.execExpandFixed opc am pf step n cw s
  | .expandWild opc am pf step cw => Sys2Proof.Machine.execExpandWild opc am pf step cw s
  | .expandTable => Sys2Proof.Machine.execExpandTable s
  | .jseq => Sys2Proof.Machine.execJseq s
  | .jdec => Sys2Proof.Machine.execJdec s
  | .validate => Sys2Proof.Machine.execValidate s
  | .generate => Sys2Proof.Machine.execGenerate s
  | .lookup a => Sys2Proof.Machine.execLookup a s
  | .formatMaG a => Sys2Proof.Machine.execFormatMaG a s
  | .formatMaJ a => Sys2Proof.Machine.execFormatMaJ a s
  | .formatCw w => Sys2Proof.Machine.execFormatCw w s
  | .magOpc a => Sys2Proof.Machine.execMagOpc a s
  | .magAm a => Sys2Proof.Machine.execMagAm a s
  | .magRsv a => Sys2Proof.Machine.execMagRsv a s
  | .magPf a => Sys2Proof.Machine.execMagPf a s
  | .magStep a => Sys2Proof.Machine.execMagStep a s
  | .magCond a => Sys2Proof.Machine.execMagCond a s
  | .majSel a => Sys2Proof.Machine.execMajSel a s
  | .cond0 a => Sys2Proof.Machine.execCond0 a s
  | .cond1 a => Sys2Proof.Machine.execCond1 a s
  | .cond2 a => Sys2Proof.Machine.execCond2 a s
  | .cond3 a => Sys2Proof.Machine.execCond3 a s
  | .sel0 a => Sys2Proof.Machine.execSel0 a s
  | .sel1 a => Sys2Proof.Machine.execSel1 a s
  | .sel2 a => Sys2Proof.Machine.execSel2 a s
  | .sel3 a => Sys2Proof.Machine.execSel3 a s
  | .sel4 a => Sys2Proof.Machine.execSel4 a s
  | .sel5 a => Sys2Proof.Machine.execSel5 a s
  | .sel6 a => Sys2Proof.Machine.execSel6 a s
  | .sel7 a => Sys2Proof.Machine.execSel7 a s
  | .cwNextStep w => Sys2Proof.Machine.execCwNextStep w s
  | .cwLdAddrHi w => Sys2Proof.Machine.execCwLdAddrHi w s
  | .cwLdAddrLo w => Sys2Proof.Machine.execCwLdAddrLo w s
  | .cwMemOe w => Sys2Proof.Machine.execCwMemOe w s
  | .cwMemWe w => Sys2Proof.Machine.execCwMemWe w s
  | .cwLdIr w => Sys2Proof.Machine.execCwLdIr w s
  | .cwLdA w => Sys2Proof.Machine.execCwLdA w s
  | .cwLdB w => Sys2Proof.Machine.execCwLdB w s
  | .cwLdRes w => Sys2Proof.Machine.execCwLdRes w s
  | .cwResOe w => Sys2Proof.Machine.execCwResOe w s
  | .cwAluOp w => Sys2Proof.Machine.execCwAluOp w s
  | .cwLdPcHi w => Sys2Proof.Machine.execCwLdPcHi w s
  | .cwLdPcLo w => Sys2Proof.Machine.execCwLdPcLo w s
  | .cwPcHiOe w => Sys2Proof.Machine.execCwPcHiOe w s
  | .cwPcLoOe w => Sys2Proof.Machine.execCwPcLoOe w s
  | .cwIncPc w => Sys2Proof.Machine.execCwIncPc w s
  | .cwLdIo w => Sys2Proof.Machine.execCwLdIo w s
  | .cwIoOe w => Sys2Proof.Machine.execCwIoOe w s
  | .cwIoWe w => Sys2Proof.Machine.execCwIoWe w s
  | .aluNop w => Sys2Proof.Machine.execAluNop w s
  | .aluShift w => Sys2Proof.Machine.execAluShift w s
  | .aluAdd w => Sys2Proof.Machine.execAluAdd w s
  | .aluSub w => Sys2Proof.Machine.execAluSub w s
  | .aluInv w => Sys2Proof.Machine.execAluInv w s
  | .aluXor w => Sys2Proof.Machine.execAluXor w s
  | .aluOr w => Sys2Proof.Machine.execAluOr w s
  | .aluAnd w => Sys2Proof.Machine.execAluAnd w s
  | .jdecI1J0 => Sys2Proof.Machine.execJdecI1J0 s
  | .jdecI1J1 => Sys2Proof.Machine.execJdecI1J1 s
  | .jdecI1J2 => Sys2Proof.Machine.execJdecI1J2 s
  | .jdecI1J3 => Sys2Proof.Machine.execJdecI1J3 s
  | .jdecI1J4 => Sys2Proof.Machine.execJdecI1J4 s
  | .jdecI1J5 => Sys2Proof.Machine.execJdecI1J5 s
  | .jdecI1J6 => Sys2Proof.Machine.execJdecI1J6 s
  | .jdecI1J7 => Sys2Proof.Machine.execJdecI1J7 s
  | .jdecI2J0 => Sys2Proof.Machine.execJdecI2J0 s
  | .jdecI2J1 => Sys2Proof.Machine.execJdecI2J1 s
  | .jdecI2J2 => Sys2Proof.Machine.execJdecI2J2 s
  | .jdecI2J3 => Sys2Proof.Machine.execJdecI2J3 s
  | .jdecI2J4 => Sys2Proof.Machine.execJdecI2J4 s
  | .jdecI2J5 => Sys2Proof.Machine.execJdecI2J5 s
  | .jdecI2J6 => Sys2Proof.Machine.execJdecI2J6 s
  | .jdecI2J7 => Sys2Proof.Machine.execJdecI2J7 s
  | .jdecI3J0 => Sys2Proof.Machine.execJdecI3J0 s
  | .jdecI3J1 => Sys2Proof.Machine.execJdecI3J1 s
  | .jdecI3J2 => Sys2Proof.Machine.execJdecI3J2 s
  | .jdecI3J3 => Sys2Proof.Machine.execJdecI3J3 s
  | .jdecI3J4 => Sys2Proof.Machine.execJdecI3J4 s
  | .jdecI3J5 => Sys2Proof.Machine.execJdecI3J5 s
  | .jdecI3J6 => Sys2Proof.Machine.execJdecI3J6 s
  | .jdecI3J7 => Sys2Proof.Machine.execJdecI3J7 s
  | .jdecI4J0 => Sys2Proof.Machine.execJdecI4J0 s
  | .jdecI4J1 => Sys2Proof.Machine.execJdecI4J1 s
  | .jdecI4J2 => Sys2Proof.Machine.execJdecI4J2 s
  | .jdecI4J3 => Sys2Proof.Machine.execJdecI4J3 s
  | .jdecI4J4 => Sys2Proof.Machine.execJdecI4J4 s
  | .jdecI4J5 => Sys2Proof.Machine.execJdecI4J5 s
  | .jdecI4J6 => Sys2Proof.Machine.execJdecI4J6 s
  | .jdecI4J7 => Sys2Proof.Machine.execJdecI4J7 s
  | .jdecI5J0 => Sys2Proof.Machine.execJdecI5J0 s
  | .jdecI5J1 => Sys2Proof.Machine.execJdecI5J1 s
  | .jdecI5J2 => Sys2Proof.Machine.execJdecI5J2 s
  | .jdecI5J3 => Sys2Proof.Machine.execJdecI5J3 s
  | .jdecI5J4 => Sys2Proof.Machine.execJdecI5J4 s
  | .jdecI5J5 => Sys2Proof.Machine.execJdecI5J5 s
  | .jdecI5J6 => Sys2Proof.Machine.execJdecI5J6 s
  | .jdecI5J7 => Sys2Proof.Machine.execJdecI5J7 s
  | .jdecI6J0 => Sys2Proof.Machine.execJdecI6J0 s
  | .jdecI6J1 => Sys2Proof.Machine.execJdecI6J1 s
  | .jdecI6J2 => Sys2Proof.Machine.execJdecI6J2 s
  | .jdecI6J3 => Sys2Proof.Machine.execJdecI6J3 s
  | .jdecI6J4 => Sys2Proof.Machine.execJdecI6J4 s
  | .jdecI6J5 => Sys2Proof.Machine.execJdecI6J5 s
  | .jdecI6J6 => Sys2Proof.Machine.execJdecI6J6 s
  | .jdecI6J7 => Sys2Proof.Machine.execJdecI6J7 s
  | .jdecI7J0 => Sys2Proof.Machine.execJdecI7J0 s
  | .jdecI7J1 => Sys2Proof.Machine.execJdecI7J1 s
  | .jdecI7J2 => Sys2Proof.Machine.execJdecI7J2 s
  | .jdecI7J3 => Sys2Proof.Machine.execJdecI7J3 s
  | .jdecI7J4 => Sys2Proof.Machine.execJdecI7J4 s
  | .jdecI7J5 => Sys2Proof.Machine.execJdecI7J5 s
  | .jdecI7J6 => Sys2Proof.Machine.execJdecI7J6 s
  | .jdecI7J7 => Sys2Proof.Machine.execJdecI7J7 s

end Sys2Proof.Machine
end

