-- ==== Sys2Proof/Machine/Step.lean ====
section
/-! DEFINITION. One step: the host's next call runs (log 1). -/

namespace Sys2Proof.Machine

/-- One step with the parameters as its argument (10_state.md R14), whatever parameters the state last had. With no call
pending the engine does nothing and the rest of the state stays as it is (70_reset_and_hazards.md R142: no timing). Otherwise the first pending call is taken off the list,
decoded and run to its end under the parameters (10_state.md R10: no suspension). -/
def stepWith (p : Params) (s : State) : Host.Outcome State Fault Refusal :=
  match s.calls with
  | [] => .next { s with params := p }
  | f :: rest =>
    match decode f with
    | .error e => .fault (.badCall e)
    | .ok i => exec i { s with params := p, calls := rest }

/-- One step in the form the host takes it, which has no second argument: the parameters come with the state (log 6). -/
def step (s : State) : Host.Outcome State Fault Refusal := stepWith s.params s

/-- The machine of each choice of the parameters: the host supplies them before the first call (70_reset_and_hazards.md
R132), and no step writes them. -/
def machineWith (p : Params) : Host.Core where
  State := State
  Fault := Fault
  Refusal := Refusal
  step := step
  reset := State.resetWith p

/-- The state with a table word of `nbits` bits as its next pending call (log 1, log 3). -/
def State.withFetchWord (s : State) (nbits w : Nat) : State :=
  { s with calls := tableFrame nbits w :: s.calls }

end Sys2Proof.Machine
end

