-- ==== Sys2Proof/Machine/Resolve.lean ====
section
/-! DEFINITION. The closed form of the final contents (44_generate_and_lookup.md R107), and the addresses a pass writes
(20_memory.md R37, 43_jump_expander.md R96, R97). No operation uses them: claims compare the operations with them. -/

namespace Sys2Proof.Machine

/-- The entries of TABLE that read as an Entry, in list order. -/
def Params.entries (p : Params) : List Entry := p.table.filterMap parseEntry

/-- The entries of JUMP_TEMPLATE that read as a TemplateEntry, in list order. -/
def Params.templateEntries (p : Params) : List TemplateEntry := p.template.filterMap parseTemplate

/-- A TABLE entry names an address: it encodes to it and its condition part admits the address's nibble (R107 case 3). -/
def Entry.names (e : Entry) (a : Nat) : Bool :=
  match encodeAddress e.opc e.am e.pf e.step (slice a 3 0) with
  | .ok b => b == a && (e.cond == .any || e.cond == .only (slice a 3 0))
  | .error _ => false

/-- A template entry is copied to an address by JSEQ (R107 case 2): selector 1 to 7, the template-step address of the
address, and not the decision step. -/
def TemplateEntry.copiedTo (t : TemplateEntry) (p : Params) (a : Nat) : Bool :=
  decide (1 ≤ slice a 10 8) && t.taddr == (a &&& 0xF8F0) && t.taddr != p.decTaddr

/-- The decision cells of JDEC with their words, in loop order (R94). -/
def Params.decisionCells (p : Params) : List (Nat × Nat) :=
  selectors.flatMap fun i => patterns.map fun j =>
    (p.decTaddr + (i <<< Config.selShift) + (j <<< Config.flagpatShift), p.decisionWord i j)

/-- R107 case 1: the word JDEC gives an address. -/
def Params.decisionAt (p : Params) (a : Nat) : Option Nat :=
  (p.decisionCells.find? fun c => c.1 == a).map (·.2)

/-- R107 case 2: the word of the last template entry that JSEQ copies to an address. -/
def Params.templateAt (p : Params) (a : Nat) : Option Nat :=
  ((p.templateEntries.filter fun t => t.copiedTo p a).getLast?).map (·.cw)

/-- R107 case 3: the word of the last TABLE entry that names an address. -/
def Params.tableAt (p : Params) (a : Nat) : Option Nat :=
  ((p.entries.filter fun e => e.names a).getLast?).map (·.cw)

/-- R107 case 4: the three fill bytes as a control word. -/
def Params.fillWord (p : Params) : Nat := p.fill0 + 2 ^ 8 * p.fill1 + 2 ^ 16 * p.fill2

/-- The control word some pass writes at an address: decision over template over table. -/
def Params.writtenAt (p : Params) (a : Nat) : Option Nat :=
  ((p.decisionAt a).or (p.templateAt a)).or (p.tableAt a)

/-- RESOLVE(a) (R107). -/
def Params.resolve (p : Params) (a : Nat) : Nat := (p.writtenAt a).getD p.fillWord

end Sys2Proof.Machine
end

