-- ==== Sys2Proof/Safety.lean ====
section
/-! DEFINITION. The terms the claims use: the invariant of the machine, what an instruction leaves unchanged, the parameters
that VALIDATE passes, and the table author's next-step obligation. -/

namespace Sys2Proof.Machine

/-- A record of DIAG names a cell that exists (60_exceptions.md R113: a 16-bit address and a chip index). -/
def WriteTargetFailure.inRange (r : WriteTargetFailure) : Bool :=
  decide (r.address < Config.imageSize) && decide (r.chip < Config.chips)

/-- The invariant of the machine: the images are in canonical form, every record of DIAG names a cell that exists, there are
no more records than placements made, and a finished run had parameters that VALIDATE passes. -/
def State.Inv (s : State) : Prop :=
  s.memoryWf = true ∧ (∀ r ∈ s.diag, r.inRange = true) ∧ s.diag.length ≤ s.placed ∧
    (s.finished = true → validate s.params = none)

/-- Every cell of the three images reads the same in both states, but for the cells of the given addresses. -/
def State.sameCellsOutside (s t : State) (touched : Nat → Prop) : Prop :=
  ∀ c a, c < Config.chips → ¬ touched a → t.cell c a = s.cell c a

/-- Everything but the images, DIAG, the placement count and the result is the same in both states. -/
def State.sameControl (s t : State) : Prop :=
  t.finished = s.finished ∧ t.params = s.params ∧ t.calls = s.calls

/-- The medium accepts every placement: PlaceOK is always true, as by default (00_scope.md R6). -/
def Params.acceptsAll (p : Params) : Prop := ∀ c a v k, p.placeOK c a v k = true

/-- Lane c of a number as a byte (20_memory.md R30). -/
def laneOfWord (w c : Nat) : Byte := BitVec.ofNat 8 (w / 2 ^ (8 * c))

/-- All three cells of an address hold the lanes of a control word. -/
def Block.holdsWord (b : Block) (a w : Nat) : Prop := ∀ c, c < Config.chips → b.cell c a = some (laneOfWord w c)

/-- An Entry whose components are in range (30_encoding.md R52). -/
def Entry.inRange (e : Entry) : Prop :=
  e.opc ≤ 15 ∧ e.am ≤ 1 ∧ e.pf ≤ 1 ∧ e.step ≤ 15 ∧ (∀ n, e.cond = .only n → n ≤ 15) ∧ e.cw < 2 ^ 24

/-- A TemplateEntry whose components are in range (30_encoding.md R53). -/
def TemplateEntry.inRange (t : TemplateEntry) : Prop :=
  t.taddr ≤ 65535 ∧ t.taddr / 256 % 8 = 0 ∧ t.taddr % 16 = 0 ∧ t.cw < 2 ^ 24

/-- A legal record of CWPACK: every component within its field's width (41_control_word_codec.md R73). -/
def legalRecord (r : CwRecord) : Prop := ∀ f : CwField, r.get f < 2 ^ f.width

/-- Every element of a TABLE reads as an Entry in range (44_generate_and_lookup.md R100 step 2). -/
def tableInRange (els : List RawElement) : Prop := ∀ el ∈ els, ∃ e, parseEntry el = some e ∧ e.inRange

/-- Every element of a JUMP_TEMPLATE reads as a TemplateEntry in range (R100 step 3). -/
def templateInRange (els : List RawElement) : Prop := ∀ el ∈ els, ∃ t, parseTemplate el = some t ∧ t.inRange

/-- The parameters meet every constraint that 44_generate_and_lookup.md R100 lists. -/
def Params.meetsConstraints (p : Params) : Prop :=
  p.cwl.valid = true ∧ tableInRange p.table ∧ templateInRange p.template ∧
    (p.jumpBase ≤ 65535 ∧ p.jumpBase % 2048 = 0) ∧ p.cwContinue < 2 ^ 24 ∧ p.cwAbort < 2 ^ 24 ∧
    p.cwContinue ≠ p.cwAbort ∧ p.fill0 < 256 ∧ p.fill1 < 256 ∧ p.fill2 < 256

/-- Some lane of the address holds a byte. -/
def Block.written (b : Block) (a : Nat) : Prop := ∃ c, c < Config.chips ∧ b.cell c a ≠ none

/-- The next-step invariant, the table author's obligation (44_generate_and_lookup.md R105), as a predicate over the state a
Finished run leaves: for every address that was written, with s the NEXT_STEP of CWUNPACK(LOOKUP(a)), the address equal to it
except for step field s was written too. DESIGN CHOICE (log 30): an address counts as written where some lane of it holds a
byte, so one whose three placements were all rejected does not. The block does not check it; a claim that needs it takes it
as a premise. -/
def State.nextStepExists (s : State) : Prop :=
  s.finished = true ∧ ∀ a w r, a < Config.imageSize → s.written a → lookupWord s.params s.toBlock a = .ok w →
    unpackWord s.params.cwl w = .ok r → s.written (a - slice a 7 4 * 16 + r.nextStep * 16)

/-- The selector and flag pattern of a decision-cell instruction (43_jump_expander.md R94); none for the others. -/
def decisionCellOf : Instr → Option (Nat × Nat)
  | .encode _ _ _ _ _ => none
  | .decode _ => none
  | .encodej _ _ _ => none
  | .decodej _ => none
  | .lanebyte _ _ => none
  | .lanejoin _ _ _ => none
  | .cwpack _ => none
  | .cwunpack _ => none
  | .place _ _ _ => none
  | .imgread _ _ => none
  | .emit _ _ => none
  | .expandFixed _ _ _ _ _ _ => none
  | .expandWild _ _ _ _ _ => none
  | .expandTable => none
  | .jseq => none
  | .jdec => none
  | .validate => none
  | .generate => none
  | .lookup _ => none
  | .formatMaG _ => none
  | .formatMaJ _ => none
  | .formatCw _ => none
  | .magOpc _ => none
  | .magAm _ => none
  | .magRsv _ => none
  | .magPf _ => none
  | .magStep _ => none
  | .magCond _ => none
  | .majSel _ => none
  | .cond0 _ => none
  | .cond1 _ => none
  | .cond2 _ => none
  | .cond3 _ => none
  | .sel0 _ => none
  | .sel1 _ => none
  | .sel2 _ => none
  | .sel3 _ => none
  | .sel4 _ => none
  | .sel5 _ => none
  | .sel6 _ => none
  | .sel7 _ => none
  | .cwNextStep _ => none
  | .cwLdAddrHi _ => none
  | .cwLdAddrLo _ => none
  | .cwMemOe _ => none
  | .cwMemWe _ => none
  | .cwLdIr _ => none
  | .cwLdA _ => none
  | .cwLdB _ => none
  | .cwLdRes _ => none
  | .cwResOe _ => none
  | .cwAluOp _ => none
  | .cwLdPcHi _ => none
  | .cwLdPcLo _ => none
  | .cwPcHiOe _ => none
  | .cwPcLoOe _ => none
  | .cwIncPc _ => none
  | .cwLdIo _ => none
  | .cwIoOe _ => none
  | .cwIoWe _ => none
  | .aluNop _ => none
  | .aluShift _ => none
  | .aluAdd _ => none
  | .aluSub _ => none
  | .aluInv _ => none
  | .aluXor _ => none
  | .aluOr _ => none
  | .aluAnd _ => none
  | .jdecI1J0 => some (1, 0)
  | .jdecI1J1 => some (1, 1)
  | .jdecI1J2 => some (1, 2)
  | .jdecI1J3 => some (1, 3)
  | .jdecI1J4 => some (1, 4)
  | .jdecI1J5 => some (1, 5)
  | .jdecI1J6 => some (1, 6)
  | .jdecI1J7 => some (1, 7)
  | .jdecI2J0 => some (2, 0)
  | .jdecI2J1 => some (2, 1)
  | .jdecI2J2 => some (2, 2)
  | .jdecI2J3 => some (2, 3)
  | .jdecI2J4 => some (2, 4)
  | .jdecI2J5 => some (2, 5)
  | .jdecI2J6 => some (2, 6)
  | .jdecI2J7 => some (2, 7)
  | .jdecI3J0 => some (3, 0)
  | .jdecI3J1 => some (3, 1)
  | .jdecI3J2 => some (3, 2)
  | .jdecI3J3 => some (3, 3)
  | .jdecI3J4 => some (3, 4)
  | .jdecI3J5 => some (3, 5)
  | .jdecI3J6 => some (3, 6)
  | .jdecI3J7 => some (3, 7)
  | .jdecI4J0 => some (4, 0)
  | .jdecI4J1 => some (4, 1)
  | .jdecI4J2 => some (4, 2)
  | .jdecI4J3 => some (4, 3)
  | .jdecI4J4 => some (4, 4)
  | .jdecI4J5 => some (4, 5)
  | .jdecI4J6 => some (4, 6)
  | .jdecI4J7 => some (4, 7)
  | .jdecI5J0 => some (5, 0)
  | .jdecI5J1 => some (5, 1)
  | .jdecI5J2 => some (5, 2)
  | .jdecI5J3 => some (5, 3)
  | .jdecI5J4 => some (5, 4)
  | .jdecI5J5 => some (5, 5)
  | .jdecI5J6 => some (5, 6)
  | .jdecI5J7 => some (5, 7)
  | .jdecI6J0 => some (6, 0)
  | .jdecI6J1 => some (6, 1)
  | .jdecI6J2 => some (6, 2)
  | .jdecI6J3 => some (6, 3)
  | .jdecI6J4 => some (6, 4)
  | .jdecI6J5 => some (6, 5)
  | .jdecI6J6 => some (6, 6)
  | .jdecI6J7 => some (6, 7)
  | .jdecI7J0 => some (7, 0)
  | .jdecI7J1 => some (7, 1)
  | .jdecI7J2 => some (7, 2)
  | .jdecI7J3 => some (7, 3)
  | .jdecI7J4 => some (7, 4)
  | .jdecI7J5 => some (7, 5)
  | .jdecI7J6 => some (7, 6)
  | .jdecI7J7 => some (7, 7)

/-- The calls that read no image and write no state: the pure functions (60_exceptions.md R118, LOOKUP apart) and the readings
of an address or of a control word (log 4). -/
def pureCall : Instr → Bool
  | .encode _ _ _ _ _ => true
  | .decode _ => true
  | .encodej _ _ _ => true
  | .decodej _ => true
  | .lanebyte _ _ => true
  | .lanejoin _ _ _ => true
  | .cwpack _ => true
  | .cwunpack _ => true
  | .place _ _ _ => false
  | .imgread _ _ => false
  | .emit _ _ => false
  | .expandFixed _ _ _ _ _ _ => false
  | .expandWild _ _ _ _ _ => false
  | .expandTable => false
  | .jseq => false
  | .jdec => false
  | .validate => false
  | .generate => false
  | .lookup _ => false
  | .formatMaG _ => true
  | .formatMaJ _ => true
  | .formatCw _ => true
  | .magOpc _ => true
  | .magAm _ => true
  | .magRsv _ => true
  | .magPf _ => true
  | .magStep _ => true
  | .magCond _ => true
  | .majSel _ => true
  | .cond0 _ => true
  | .cond1 _ => true
  | .cond2 _ => true
  | .cond3 _ => true
  | .sel0 _ => true
  | .sel1 _ => true
  | .sel2 _ => true
  | .sel3 _ => true
  | .sel4 _ => true
  | .sel5 _ => true
  | .sel6 _ => true
  | .sel7 _ => true
  | .cwNextStep _ => true
  | .cwLdAddrHi _ => true
  | .cwLdAddrLo _ => true
  | .cwMemOe _ => true
  | .cwMemWe _ => true
  | .cwLdIr _ => true
  | .cwLdA _ => true
  | .cwLdB _ => true
  | .cwLdRes _ => true
  | .cwResOe _ => true
  | .cwAluOp _ => true
  | .cwLdPcHi _ => true
  | .cwLdPcLo _ => true
  | .cwPcHiOe _ => true
  | .cwPcLoOe _ => true
  | .cwIncPc _ => true
  | .cwLdIo _ => true
  | .cwIoOe _ => true
  | .cwIoWe _ => true
  | .aluNop _ => true
  | .aluShift _ => true
  | .aluAdd _ => true
  | .aluSub _ => true
  | .aluInv _ => true
  | .aluXor _ => true
  | .aluOr _ => true
  | .aluAnd _ => true
  | .jdecI1J0 | .jdecI1J1 | .jdecI1J2 | .jdecI1J3 | .jdecI1J4 | .jdecI1J5 | .jdecI1J6 | .jdecI1J7 => false
  | .jdecI2J0 | .jdecI2J1 | .jdecI2J2 | .jdecI2J3 | .jdecI2J4 | .jdecI2J5 | .jdecI2J6 | .jdecI2J7 => false
  | .jdecI3J0 | .jdecI3J1 | .jdecI3J2 | .jdecI3J3 | .jdecI3J4 | .jdecI3J5 | .jdecI3J6 | .jdecI3J7 => false
  | .jdecI4J0 | .jdecI4J1 | .jdecI4J2 | .jdecI4J3 | .jdecI4J4 | .jdecI4J5 | .jdecI4J6 | .jdecI4J7 => false
  | .jdecI5J0 | .jdecI5J1 | .jdecI5J2 | .jdecI5J3 | .jdecI5J4 | .jdecI5J5 | .jdecI5J6 | .jdecI5J7 => false
  | .jdecI6J0 | .jdecI6J1 | .jdecI6J2 | .jdecI6J3 | .jdecI6J4 | .jdecI6J5 | .jdecI6J6 | .jdecI6J7 => false
  | .jdecI7J0 | .jdecI7J1 | .jdecI7J2 | .jdecI7J3 | .jdecI7J4 | .jdecI7J5 | .jdecI7J6 | .jdecI7J7 => false

/-- The calls that store to the images: PLACE, EMIT, the passes and the decision cells. -/
def storingCall : Instr → Bool
  | .encode _ _ _ _ _ => false
  | .decode _ => false
  | .encodej _ _ _ => false
  | .decodej _ => false
  | .lanebyte _ _ => false
  | .lanejoin _ _ _ => false
  | .cwpack _ => false
  | .cwunpack _ => false
  | .place _ _ _ => true
  | .imgread _ _ => false
  | .emit _ _ => true
  | .expandFixed _ _ _ _ _ _ => true
  | .expandWild _ _ _ _ _ => true
  | .expandTable => true
  | .jseq => true
  | .jdec => true
  | .validate => false
  | .generate => false
  | .lookup _ => false
  | .formatMaG _ => false
  | .formatMaJ _ => false
  | .formatCw _ => false
  | .magOpc _ => false
  | .magAm _ => false
  | .magRsv _ => false
  | .magPf _ => false
  | .magStep _ => false
  | .magCond _ => false
  | .majSel _ => false
  | .cond0 _ => false
  | .cond1 _ => false
  | .cond2 _ => false
  | .cond3 _ => false
  | .sel0 _ => false
  | .sel1 _ => false
  | .sel2 _ => false
  | .sel3 _ => false
  | .sel4 _ => false
  | .sel5 _ => false
  | .sel6 _ => false
  | .sel7 _ => false
  | .cwNextStep _ => false
  | .cwLdAddrHi _ => false
  | .cwLdAddrLo _ => false
  | .cwMemOe _ => false
  | .cwMemWe _ => false
  | .cwLdIr _ => false
  | .cwLdA _ => false
  | .cwLdB _ => false
  | .cwLdRes _ => false
  | .cwResOe _ => false
  | .cwAluOp _ => false
  | .cwLdPcHi _ => false
  | .cwLdPcLo _ => false
  | .cwPcHiOe _ => false
  | .cwPcLoOe _ => false
  | .cwIncPc _ => false
  | .cwLdIo _ => false
  | .cwIoOe _ => false
  | .cwIoWe _ => false
  | .aluNop _ => false
  | .aluShift _ => false
  | .aluAdd _ => false
  | .aluSub _ => false
  | .aluInv _ => false
  | .aluXor _ => false
  | .aluOr _ => false
  | .aluAnd _ => false
  | .jdecI1J0 | .jdecI1J1 | .jdecI1J2 | .jdecI1J3 | .jdecI1J4 | .jdecI1J5 | .jdecI1J6 | .jdecI1J7 => true
  | .jdecI2J0 | .jdecI2J1 | .jdecI2J2 | .jdecI2J3 | .jdecI2J4 | .jdecI2J5 | .jdecI2J6 | .jdecI2J7 => true
  | .jdecI3J0 | .jdecI3J1 | .jdecI3J2 | .jdecI3J3 | .jdecI3J4 | .jdecI3J5 | .jdecI3J6 | .jdecI3J7 => true
  | .jdecI4J0 | .jdecI4J1 | .jdecI4J2 | .jdecI4J3 | .jdecI4J4 | .jdecI4J5 | .jdecI4J6 | .jdecI4J7 => true
  | .jdecI5J0 | .jdecI5J1 | .jdecI5J2 | .jdecI5J3 | .jdecI5J4 | .jdecI5J5 | .jdecI5J6 | .jdecI5J7 => true
  | .jdecI6J0 | .jdecI6J1 | .jdecI6J2 | .jdecI6J3 | .jdecI6J4 | .jdecI6J5 | .jdecI6J6 | .jdecI6J7 => true
  | .jdecI7J0 | .jdecI7J1 | .jdecI7J2 | .jdecI7J3 | .jdecI7J4 | .jdecI7J5 | .jdecI7J6 | .jdecI7J7 => true

end Sys2Proof.Machine
end

