-- ==== Sys2Proof/Certificates/Slice0/Obligations.lean ====
section
/-! DEFINITION. The statements for the provers. `basis` and `cites` stand in OBLIGATIONS.json. -/

open Sys2Proof Sys2Proof.Machine

/-- For all operands and every state, ENCODE answers a next state that differs in the result only: the address
opc*4096 + am*2048 + pf*256 + step*16 + cond when every operand is in range, else FieldOverlap of the first operand
out of range in the order opc, am, pf, step, cond, with the value unreduced. (R60) -/
def Obligations.EncodeReturnsSumOrFirstFault : Prop :=
  ∀ (opc am pf step cond : Nat) (s : State),
    exec (.encode opc am pf step cond) s = .next { s with
    result :=
      if 15 < opc then .fault (.fieldOverlap (.operand .opc) (.num opc))
      else if 1 < am then .fault (.fieldOverlap (.operand .am) (.num am))
      else if 1 < pf then .fault (.fieldOverlap (.operand .pf) (.num pf))
      else if 15 < step then .fault (.fieldOverlap (.operand .step) (.num step))
      else if 15 < cond then .fault (.fieldOverlap (.operand .cond) (.num cond))
      else .address (opc * 4096 + am * 2048 + pf * 256 + step * 16 + cond) }

/-- For every number a and every state, DECODE answers a next state that differs in the result only: the six fields of
a when a is at most 65535 (bits 10:9 as found), else FieldOverlap of the address. (R61) -/
def Obligations.DecodeReturnsFieldsAsFound : Prop :=
  ∀ (a : Nat) (s : State), exec (.decode a) s = .next { s with
    result :=
    if a ≤ 65535 then
      .general ⟨a / 4096 % 16, a / 2048 % 2, a / 512 % 4, a / 256 % 2, a / 16 % 16, a % 16⟩
    else .fault (.fieldOverlap (.operand .address) (.num a)) }

/-- For all operands and every state, ENCODEJ answers a next state that differs in the result only: FieldOverlap of
taddr when it is above 65535 or has a bit of 10:8 or 3:0 set, else of sel above 7, else of cond above 15, else the
address taddr + sel*256 + cond, which is below 65536 and equals the bitwise OR of the three shifted terms. (R62) -/
def Obligations.EncodejReturnsSumOrFirstFault : Prop :=
  ∀ (taddr sel cond : Nat) (s : State),
    exec (.encodej taddr sel cond) s = .next { s with
    result :=
      if 65535 < taddr ∨ taddr / 256 % 8 ≠ 0 ∨ taddr % 16 ≠ 0 then .fault (.fieldOverlap (.operand .taddr) (.num taddr))
      else if 7 < sel then .fault (.fieldOverlap (.operand .sel) (.num sel))
      else if 15 < cond then .fault (.fieldOverlap (.operand .cond) (.num cond))
      else .address (taddr + sel * 256 + cond) } ∧
    (taddr ≤ 65535 → taddr / 256 % 8 = 0 → taddr % 16 = 0 → sel ≤ 7 → cond ≤ 15 →
      taddr + sel * 256 + cond = taddr ||| (sel <<< 8) ||| cond ∧ taddr + sel * 256 + cond < 65536)

/-- For every number a and every state, DECODEJ answers a next state that differs in the result only: taddr = bits
15:11 and 7:4 kept, sel = a[10:8], step = a[7:4], cond = a[3:0], flagpat = a[3:1], irq = a[0] when a is at most 65535,
else FieldOverlap of the address. (R63) -/
def Obligations.DecodejReturnsJumpFields : Prop :=
  ∀ (a : Nat) (s : State), exec (.decodej a) s = .next { s with
    result :=
    if a ≤ 65535 then
      .jump { taddr := a / 2048 * 2048 + a / 16 % 16 * 16, sel := ⟨BitVec.ofNat 3 (a / 256)⟩, step := a / 16 % 16,
              cond := a % 16, flagpat := ⟨BitVec.ofNat 3 (a / 2)⟩, irq := a % 2 }
    else .fault (.fieldOverlap (.operand .address) (.num a)) }

/-- For all legal operand tuples DECODE of the address ENCODE returns gives the tuple back with reserved field 0; two
legal tuples with one address are equal; and for every 16-bit address, ENCODE of its decoded fields is a & 0xF9FF,
which is a itself exactly when the reserved field is 0. (40_address_codec.md, the round-trip laws, 95_test_vectors.md
section 6) -/
def Obligations.AddressRoundTrip : Prop :=
  (∀ opc am pf step cond, opc ≤ 15 → am ≤ 1 → pf ≤ 1 → step ≤ 15 → cond ≤ 15 →
    ∃ a, encodeAddress opc am pf step cond = .ok a ∧ a < 65536 ∧ decodeAddress a = .ok ⟨opc, am, 0, pf, step, cond⟩) ∧
  (∀ opc am pf step cond opc' am' pf' step' cond' a, encodeAddress opc am pf step cond = .ok a →
    encodeAddress opc' am' pf' step' cond' = .ok a →
    opc = opc' ∧ am = am' ∧ pf = pf' ∧ step = step' ∧ cond = cond') ∧
  (∀ a, a < 65536 → ∃ g, decodeAddress a = .ok g ∧
    encodeAddress g.opc g.am g.pf g.step g.cond = .ok (a &&& 0xF9FF) ∧ (a &&& 0xF9FF = a ↔ g.rsv = 0))

/-- For every legal taddr, sel and cond, DECODEJ of the address ENCODEJ returns has those three components; and for
every 16-bit address, ENCODEJ of its taddr, selector and nibble is the address itself. (40_address_codec.md, the
round-trip laws, 95_test_vectors.md section 2.3) -/
def Obligations.JumpAddressRoundTrip : Prop :=
  (∀ taddr sel cond, taddr ≤ 65535 → taddr / 256 % 8 = 0 → taddr % 16 = 0 → sel ≤ 7 → cond ≤ 15 →
    ∃ a j, encodeJump taddr sel cond = .ok a ∧ decodeJump a = .ok j ∧
      j.taddr = taddr ∧ j.sel.bits.toNat = sel ∧ j.cond = cond) ∧
  (∀ a, a < 65536 → ∃ j, decodeJump a = .ok j ∧ encodeJump j.taddr j.sel.bits.toNat j.cond = .ok a)

/-- For every 16-bit address a, some operands make ENCODE return a if and only if ENCODABLE(a), that is a[10:9] = 0.
(40_address_codec.md, the predicate ENCODABLE) -/
def Obligations.EncodableIsImageOfEncode : Prop :=
  ∀ a, a < 65536 → ((∃ opc am pf step cond, encodeAddress opc am pf step cond = .ok a) ↔ encodable a = true) ∧
    (encodable a = true ↔ a / 512 % 4 = 0)

/-- For all operands and every state, LANEBYTE answers a next state that differs in the result only: FieldOverlap of
the container when it is 2^32 or more, else of the lane index when it is 3 or more, else the lane byte (w / 2^(8c))
mod 256, whatever bits 31:24 hold. (R70) -/
def Obligations.LanebyteReturnsLane : Prop :=
  ∀ (w c : Nat) (s : State), exec (.lanebyte w c) s = .next { s with
    result :=
    if 2 ^ 32 ≤ w then .fault (.fieldOverlap (.operand .cw) (.num w))
    else if 3 ≤ c then .fault (.fieldOverlap (.operand .lane) (.num c))
    else .laneByte (w / 2 ^ (8 * c) % 256) }

/-- For all operands and every state, LANEJOIN answers a next state that differs in the result only: the word b0 +
256*b1 + 65536*b2 when the three operands are bytes (and that word is below 2^24), else FieldOverlap of the triple.
(R71) -/
def Obligations.LanejoinReturnsWord : Prop :=
  ∀ (b0 b1 b2 : Nat) (s : State),
    (b0 < 256 → b1 < 256 → b2 < 256 → b0 + 256 * b1 + 65536 * b2 < 2 ^ 24 ∧
      exec (.lanejoin b0 b1 b2) s = .next { s with result := .word (b0 + 256 * b1 + 65536 * b2) }) ∧
    (256 ≤ b0 ∨ 256 ≤ b1 ∨ 256 ≤ b2 → exec (.lanejoin b0 b1 b2) s =
      .next { s with result := .fault (.fieldOverlap (.operand .lanebyte) (.triple b0 b1 b2)) })

/-- For every container value w the three LANEBYTEs of w join to w mod 2^24, which is w itself below 2^24; and for all
bytes, LANEBYTE of their LANEJOIN gives each byte back. (R72) -/
def Obligations.LaneReconstruction : Prop :=
  (∀ w, w < 2 ^ 32 → ∃ b0 b1 b2, laneByte w 0 = .ok b0 ∧ laneByte w 1 = .ok b1 ∧ laneByte w 2 = .ok b2 ∧
    laneJoin b0 b1 b2 = .ok (w % 2 ^ 24) ∧ (w < 2 ^ 24 → laneJoin b0 b1 b2 = .ok w)) ∧
  (∀ b0 b1 b2, b0 < 256 → b1 < 256 → b2 < 256 → ∃ w, laneJoin b0 b1 b2 = .ok w ∧
    laneByte w 0 = .ok b0 ∧ laneByte w 1 = .ok b1 ∧ laneByte w 2 = .ok b2)

/-- For every record and every state, CWPACK answers a next state that differs in the result only: when every
component is within its width, the sum over the nineteen fields of the component times 2 to the lowest word bit the
layout CWL gives the field; otherwise FieldOverlap of the first field in row order whose component is outside its
width. That it is so under a layout that VALIDATE rejects too is the model's choice (log 29).
(41_control_word_codec.md, CWPACK) -/
def Obligations.CwpackSumsFieldsOrFirstFault : Prop :=
  ∀ (r : CwRecord) (s : State),
    (legalRecord r → exec (.cwpack r) s =
      .next { s with result := .word ((rowOrder.map fun f => r.get f * 2 ^ s.params.cwl.lo f).sum) }) ∧
    (∀ before f after, rowOrder = before ++ f :: after → (∀ g ∈ before, r.get g < 2 ^ g.width) → 2 ^ f.width ≤ r.get f →
      exec (.cwpack r) s = .next { s with result := .fault (.fieldOverlap (.field f) (.num (r.get f))) })

/-- For every w and every state, CWUNPACK answers a next state that differs in the result only: below 2^32 a record
whose component for each field f is the field's bits, w / 2^lo(f) mod 2^width(f); otherwise FieldOverlap of w. That it
is so under a layout that VALIDATE rejects too is the model's choice (log 29). (41_control_word_codec.md, CWUNPACK) -/
def Obligations.CwunpackReturnsEveryField : Prop :=
  ∀ (w : Nat) (s : State),
    (w < 2 ^ 32 → ∃ r, exec (.cwunpack w) s = .next { s with result := .signals r } ∧
      ∀ f : CwField, r.get f = w / 2 ^ s.params.cwl.lo f % 2 ^ f.width) ∧
    (2 ^ 32 ≤ w → exec (.cwunpack w) s = .next { s with result := .fault (.fieldOverlap (.operand .cw) (.num w)) })

/-- For every valid layout: CWUNPACK of CWPACK of a legal record is the record, and CWPACK of CWUNPACK of a container
value w is w mod 2^24. (R75) -/
def Obligations.SignalRoundTripUnderEveryLayout : Prop :=
  ∀ L : Layout, L.valid = true →
    (∀ r : CwRecord, legalRecord r → ∃ w, packWord L r = .ok w ∧ unpackWord L w = .ok r) ∧
    (∀ w, w < 2 ^ 32 → ∃ r, unpackWord L w = .ok r ∧ packWord L r = .ok (w % 2 ^ 24))

/-- For every valid layout and every bit position k below 24 there is exactly one field whose range of word bits holds
k, and no field's range goes above bit 23. (30_encoding.md section 2, the layout parameter CWL,
41_control_word_codec.md, the round trip of the signal codec) -/
def Obligations.ValidLayoutPartitionsTheWord : Prop :=
  ∀ L : Layout, L.valid = true → (∀ f : CwField, L.hi f < 24) ∧
    ∀ k, k < 24 → ∃! f : CwField, L.lo f ≤ k ∧ k ≤ L.hi f

/-- A layout is valid if and only if every field lies in a lane 0 to 2 and inside the eight bits of it, in the lane of
the first field of its named lane, the three named lanes take three different lane indices, NEXT_STEP is bits 7:4 of
its lane, and no two fields share a bit. (30_encoding.md section 2, the layout parameter CWL, 00_scope.md section 5)
-/
def Obligations.LayoutValidExactly : Prop :=
  ∀ L : Layout, L.valid = true ↔
    (∀ f : CwField, (L.pos f).lane < 3 ∧ (L.pos f).lo + f.width ≤ 8 ∧ (L.pos f).lane = L.laneOf f.namedLane) ∧
    (∀ m n : NamedLane, m ≠ n → L.laneOf m ≠ L.laneOf n) ∧ L.nextStep.lo = 4 ∧
    (∀ f g : CwField, f ≠ g → L.hi f < L.lo g ∨ L.hi g < L.lo f)

/-- The default layout is valid and its highest and lowest word bits of the nineteen fields, in row order, are those
of the table of 30_encoding.md. The positions are the spec's own choice (log 8). (30_encoding.md section 2, the
default CWL table, 92_eei_decisions.md D2, D3) -/
def Obligations.DefaultLayoutPositions : Prop :=
  Layout.default.valid = true ∧ (rowOrder.map fun f => (Layout.default.hi f, Layout.default.lo f)) =
    [(7, 4), (3, 3), (2, 2), (1, 1), (0, 0), (15, 15), (14, 14), (13, 13), (12, 12), (11, 11), (10, 8), (23, 23),
     (22, 22), (21, 21), (20, 20), (19, 19), (18, 18), (17, 17), (16, 16)]

/-- For every container value w: LANEBYTE, EMIT, and under every valid layout CWUNPACK give on w what they give on w
mod 2^24; and VALIDATE does not pass parameters where CW_CONTINUE, CW_ABORT or the word of an entry of TABLE or
JUMP_TEMPLATE is 2^24 or more. What a direct EMIT does with such a word is the model's reading of the rule (log 27).
(41_control_word_codec.md, the container's upper byte, 90_conflicts.md C3) -/
def Obligations.ContainerUpperByteIsIgnored : Prop :=
  (∀ w c (s : State), w < 2 ^ 32 → exec (.lanebyte w c) s = exec (.lanebyte (w % 2 ^ 24) c) s) ∧
  (∀ w a (s : State), w < 2 ^ 32 → a < 65536 → exec (.emit a w) s = exec (.emit a (w % 2 ^ 24)) s) ∧
  (∀ w (s : State), w < 2 ^ 32 → s.params.cwl.valid = true →
    exec (.cwunpack w) s = exec (.cwunpack (w % 2 ^ 24)) s) ∧
  (∀ p : Params, (2 ^ 24 ≤ p.cwContinue ∨ 2 ^ 24 ≤ p.cwAbort ∨
      (∃ el ∈ p.table, ∃ e, parseEntry el = some e ∧ 2 ^ 24 ≤ e.cw) ∨
      (∃ el ∈ p.template, ∃ t, parseTemplate el = some t ∧ 2 ^ 24 ≤ t.cw)) → ∃ f, validate p = some f)

/-- For all operands and every state: on operands in range PLACE answers a next state with one more placement counted,
where either (accepted) that one cell holds the byte, every other cell and DIAG are as before, or (rejected) every
cell is as before and one record is appended to DIAG; the Finished mark (log 20), parameters and pending calls are as
before. Out of range it returns FieldOverlap("place", (a, c, v)) and changes nothing else. That the Finished mark
stays is the model's choice (log 20). So is what a PLACE called alone does with its fault (log 13). (20_memory.md
section 1, PLACE and a placement the medium rejects) -/
def Obligations.PlaceStoresOneByteOrLogs : Prop :=
  ∀ (a c v : Nat) (s : State),
    (a < 65536 → c < 3 → v < 256 → s.params.placeOK c a v s.placed = true →
      ∃ t, exec (.place a c v) s = .next t ∧ t.result = .done ∧ t.placed = s.placed + 1 ∧ s.sameControl t ∧
        t.diag = s.diag ∧ t.cell c a = some (BitVec.ofNat 8 v) ∧
        ∀ d b, d < 3 → (d ≠ c ∨ b ≠ a) → t.cell d b = s.cell d b) ∧
    (a < 65536 → c < 3 → v < 256 → s.params.placeOK c a v s.placed = false →
      ∃ t, exec (.place a c v) s = .next t ∧ t.result = .done ∧ t.placed = s.placed + 1 ∧ s.sameControl t ∧
        t.diag = s.diag ++ [⟨a, c⟩] ∧ ∀ d b, d < 3 → t.cell d b = s.cell d b) ∧
    (65536 ≤ a ∨ 3 ≤ c ∨ 256 ≤ v →
      exec (.place a c v) s = .next { s with result := .fault (.fieldOverlap (.operand .place) (.triple a c v)) })

/-- For a chip index below 3 and a 16-bit address: on a finished run IMGREAD answers a next state that differs in the
result only, the written byte or FILL[c] where nothing was written, and the same read from there answers that state
again; before a run has finished it is refused. Outside the three spaces the model faults (the model's choice, log
18). (20_memory.md section 1, IMGREAD, 20_memory.md section 3, visibility to readers) -/
def Obligations.ImgreadReturnsFinishedByte : Prop :=
  ∀ (c a : Nat) (s : State),
    (c < 3 → a < 65536 → s.finished = true →
      ∃ t, t = { s with result := .imageByte (match s.cell c a with | some v => v.toNat | none => s.params.fill c) } ∧
        exec (.imgread c a) s = .next t ∧ exec (.imgread c a) t = .next t) ∧
    (c < 3 → a < 65536 → s.finished = false → exec (.imgread c a) s = .refused .readBeforeFinished) ∧
    (3 ≤ c ∨ 65536 ≤ a → exec (.imgread c a) s = .fault (.noSuchCell c a))

/-- For every number a and every state: above 65535 LOOKUP returns FieldOverlap of the address; otherwise, on a
finished run whose three fill bytes are below 256, it answers a next state that differs in the result only, the word
b0 + 256*b1 + 65536*b2 of the three image bytes (the written byte, or the fill byte); before a run has finished it is
refused. LOOKUP is defined on a Finished run only: that before one an address above 65535 gives the FieldOverlap and
not the refusal, so that the operand check comes before the check for a Finished run, is the model's reading (log 19).
(44_generate_and_lookup.md, LOOKUP, 20_memory.md section 3, visibility to readers, 60_exceptions.md, faults of a pure
function called alone) -/
def Obligations.LookupJoinsTheThreeImages : Prop :=
  ∀ (a : Nat) (s : State),
    (65535 < a → exec (.lookup a) s = .next { s with result := .fault (.fieldOverlap (.operand .address) (.num a)) }) ∧
    (a ≤ 65535 → s.finished = false → exec (.lookup a) s = .refused .readBeforeFinished) ∧
    (a ≤ 65535 → s.finished = true → s.params.fill0 < 256 → s.params.fill1 < 256 → s.params.fill2 < 256 →
      exec (.lookup a) s = .next { s with
    result := .word (
        (match s.cell 0 a with | some v => v.toNat | none => s.params.fill0) +
        256 * (match s.cell 1 a with | some v => v.toNat | none => s.params.fill1) +
        65536 * (match s.cell 2 a with | some v => v.toNat | none => s.params.fill2)) })

/-- For every 16-bit address, every container value and every state, EMIT answers a next state: for each chip c the
cell holds lane c of the word where the medium accepts the placement (the count being c more than before) and is as
before where it rejects it; the rejected chips are appended to DIAG in the order 0, 1, 2; three more placements are
counted; every cell of another address, the Finished mark (log 20), parameters and pending calls are as before. Where
all three are accepted, the word is below 2^24 and the run is finished, LOOKUP of the address then returns the word.
With a word of 2^32 or more EMIT returns FieldOverlap of the word, and at an address of 65536 or more PLACE's
FieldOverlap of (a, 0, lane 0); nothing else changes then. That the Finished mark stays, and with it the LOOKUP after
a direct EMIT, is the model's choice (log 20), and so is the fault of a direct EMIT of a word of 2^32 or more (log
27). (42_table_expansion.md, EMIT) -/
def Obligations.EmitStoresThreeLanes : Prop :=
  ∀ (a w : Nat) (s : State), (a < 65536 → w < 2 ^ 32 →
    ∃ t, exec (.emit a w) s = .next t ∧ t.result = .done ∧ t.placed = s.placed + 3 ∧ s.sameControl t ∧
      s.sameCellsOutside t (fun b => b = a) ∧
      (∀ c, c < 3 → t.cell c a =
        if s.params.placeOK c a (laneOfWord w c).toNat (s.placed + c) then some (laneOfWord w c) else s.cell c a) ∧
      t.diag = s.diag ++ (([0, 1, 2].filter fun c =>
        !s.params.placeOK c a (laneOfWord w c).toNat (s.placed + c)).map fun c => ⟨a, c⟩) ∧
      ((∀ c, c < 3 → s.params.placeOK c a (laneOfWord w c).toNat (s.placed + c) = true) → w < 2 ^ 24 →
        s.finished = true → exec (.lookup a) t = .next { t with result := .word w })) ∧
    (2 ^ 32 ≤ w → exec (.emit a w) s = .next { s with result := .fault (.fieldOverlap (.operand .cw) (.num w)) }) ∧
    (w < 2 ^ 32 → 65536 ≤ a → exec (.emit a w) s =
      .next { s with result := .fault (.fieldOverlap (.operand .place) (.triple a 0 (w % 256))) })

/-- For every state: on operands in range and a container value, EXPAND.FIXED answers a next state, the one EMIT of
the word at opc*4096 + am*2048 + pf*256 + step*16 + n gives; where an operand is out of range it returns the fault
that ENCODE of the operands returns and changes nothing else. (R81) -/
def Obligations.ExpandFixedEmitsOnce : Prop :=
  ∀ (opc am pf step n cw : Nat) (s : State),
    (opc ≤ 15 → am ≤ 1 → pf ≤ 1 → step ≤ 15 → n ≤ 15 → cw < 2 ^ 32 →
      ∃ t, exec (.expandFixed opc am pf step n cw) s = .next t ∧ t.result = .done ∧
        exec (.emit (opc * 4096 + am * 2048 + pf * 256 + step * 16 + n) cw) s = .next t) ∧
    (15 < opc ∨ 1 < am ∨ 1 < pf ∨ 15 < step ∨ 15 < n →
      ∃ f, exec (.encode opc am pf step n) s = .next (s.takeFault f) ∧
        exec (.expandFixed opc am pf step n cw) s = .next (s.takeFault f))

/-- For every state, on operands in range and a container value, EXPAND.WILD is the sixteen EMITs at B + 0 to B + 15
in that order with B = opc*4096 + am*2048 + pf*256 + step*16. It answers a next state with 48 more placements counted,
every cell outside the row, the Finished mark (log 20), parameters and pending calls as before, DIAG only extended;
and where the medium accepts everything, DIAG as before and the word at all sixteen addresses. Where an operand is out
of range it returns the fault that ENCODE returns at nibble 0. That the Finished mark stays is the model's choice (log
20). (42_table_expansion.md, EXPAND.WILD) -/
def Obligations.ExpandWildFillsTheRow : Prop :=
  ∀ (opc am pf step cw : Nat) (s : State),
    (opc ≤ 15 → am ≤ 1 → pf ≤ 1 → step ≤ 15 → cw < 2 ^ 32 →
      exec (.expandWild opc am pf step cw) s =
        settle s (forEach (fun n => emit s.params (opc * 4096 + am * 2048 + pf * 256 + step * 16 + n) cw) (List.range 16) s.toBlock) ∧
      ∃ t, exec (.expandWild opc am pf step cw) s = .next t ∧ t.result = .done ∧ t.placed = s.placed + 48 ∧
        s.sameControl t ∧ s.sameCellsOutside t (fun b => opc * 4096 + am * 2048 + pf * 256 + step * 16 ≤ b ∧ b ≤ opc * 4096 + am * 2048 + pf * 256 + step * 16 + 15) ∧ s.diag <+: t.diag ∧
        (s.params.acceptsAll → t.diag = s.diag ∧ ∀ n, n ≤ 15 → t.holdsWord (opc * 4096 + am * 2048 + pf * 256 + step * 16 + n) cw)) ∧
    (15 < opc ∨ 1 < am ∨ 1 < pf ∨ 15 < step →
      ∃ f, exec (.encode opc am pf step 0) s = .next (s.takeFault f) ∧
        exec (.expandWild opc am pf step cw) s = .next (s.takeFault f))

/-- For every state whose TABLE is a list of entries in range, EXPAND.TABLE answers a next state: the Finished mark
(log 20), parameters and pending calls as before, DIAG only extended, every cell of an address no entry names as
before; and where the medium accepts everything, DIAG as before and at every 16-bit address the lanes of the word of
the last entry that names it. That the Finished mark stays is the model's choice (log 20). (42_table_expansion.md,
EXPAND.TABLE) -/
def Obligations.ExpandTableLastEntryWins : Prop :=
  ∀ (s : State) (es : List Entry), s.params.table = es.map Entry.raw → (∀ e ∈ es, e.inRange) →
    ∃ t, exec .expandTable s = .next t ∧ t.result = .done ∧ s.sameControl t ∧ s.diag <+: t.diag ∧
      s.sameCellsOutside t (fun a => ∃ e ∈ es, e.names a = true) ∧
      (s.params.acceptsAll → t.diag = s.diag ∧ ∀ a e before after, a < 65536 → es = before ++ e :: after →
        e.names a = true → (∀ e' ∈ after, e'.names a = false) → t.holdsWord a e.cw)

/-- For every entry in range and every 16-bit address, the entry names the address if and only if the address is
opc*4096 + am*2048 + pf*256 + step*16 + n for a nibble n up to 15 that the condition part admits: any n for a
wildcard, the one value for a fixed condition. (42_table_expansion.md, EXPAND.FIXED and EXPAND.WILD,
44_generate_and_lookup.md, RESOLVE case 3) -/
def Obligations.TableEntryNamesItsAddresses : Prop :=
  ∀ (e : Entry) (a : Nat), e.inRange → (e.names a = true ↔
    ∃ n, n ≤ 15 ∧ (e.cond = .any ∨ e.cond = .only n) ∧
      a = e.opc * 4096 + e.am * 2048 + e.pf * 256 + e.step * 16 + n)

/-- For every state whose medium accepts everything, on operands in range: EXPAND.WILD with word w1 and then
EXPAND.FIXED at nibble n with word w2 answer next states, after which nibble n holds w2 and the other fifteen hold w1;
in the other order all sixteen hold w1. (42_table_expansion.md, override locality, 70_reset_and_hazards.md section 3,
entry order inside the table) -/
def Obligations.OverrideLocalityAndOrderHazard : Prop :=
  ∀ (opc am pf step n w1 w2 : Nat) (s : State), opc ≤ 15 → am ≤ 1 → pf ≤ 1 → step ≤ 15 → n ≤ 15 → w1 < 2 ^ 24 → w2 < 2 ^ 24 →
    s.params.acceptsAll →
    (∃ t u, exec (.expandWild opc am pf step w1) s = .next t ∧ exec (.expandFixed opc am pf step n w2) t = .next u ∧
      u.holdsWord (opc * 4096 + am * 2048 + pf * 256 + step * 16 + n) w2 ∧ ∀ m, m ≤ 15 → m ≠ n → u.holdsWord (opc * 4096 + am * 2048 + pf * 256 + step * 16 + m) w1) ∧
    (∃ t u, exec (.expandFixed opc am pf step n w2) s = .next t ∧ exec (.expandWild opc am pf step w1) t = .next u ∧
      ∀ m, m ≤ 15 → u.holdsWord (opc * 4096 + am * 2048 + pf * 256 + step * 16 + m) w1)

/-- For every state: whenever EXPAND.TABLE, EXPAND.WILD or EXPAND.FIXED answers a next state, every cell of an address
with bits 10:9 not zero is as before. (40_address_codec.md, the predicate ENCODABLE, 70_reset_and_hazards.md section
3, address bit 8) -/
def Obligations.TableNeverReachesReservedBits : Prop :=
  ∀ (s t : State) (c a : Nat), c < 3 → a / 512 % 4 ≠ 0 →
    (exec .expandTable s = .next t ∨ (∃ opc am pf step cw, exec (.expandWild opc am pf step cw) s = .next t) ∨
      (∃ opc am pf step n cw, exec (.expandFixed opc am pf step n cw) s = .next t)) →
    t.cell c a = s.cell c a

/-- The model's choice (log 14): for every state whose TABLE (or JUMP_TEMPLATE) begins with an element that does not
read as an entry, EXPAND.TABLE (or JSEQ) is refused as a malformed element of that list. (60_exceptions.md,
MalformedEntry, 42_table_expansion.md, the malformed entry) -/
def Obligations.PassesRefuseMalformedElements : Prop :=
  ∀ (s : State) (el : RawElement) (els : List RawElement),
    (s.params.table = el :: els → parseEntry el = none → exec .expandTable s = .refused (.malformedElement .table)) ∧
    (s.params.template = el :: els → parseTemplate el = none →
      exec .jseq s = .refused (.malformedElement .jumpTemplate))

/-- For every state whose JUMP_TEMPLATE is a list of entries in range, JSEQ answers a next state with 336 more
placements for each entry not at DEC_TADDR; the Finished mark (log 20), parameters and pending calls as before, DIAG
only extended, every cell of an address no entry is copied to as before; and where the medium accepts everything, DIAG
as before and at taddr + i*256 + n, for every selector i from 1 to 7 and nibble n up to 15, the word of the last entry
with that taddr, unless taddr is DEC_TADDR. Where the list begins with an entry not at DEC_TADDR whose taddr is above
65535 or has a selector or nibble bit set, JSEQ returns the FieldOverlap of that taddr and changes nothing else. That
the Finished mark stays is the model's choice (log 20). So is that a direct JSEQ ends at its first fault (log 15).
(43_jump_expander.md, JSEQ) -/
def Obligations.JseqCopiesTheTemplate : Prop :=
  (∀ (s : State) (ts : List TemplateEntry), s.params.template = ts.map TemplateEntry.raw → (∀ x ∈ ts, x.inRange) →
    ∃ t, exec .jseq s = .next t ∧ t.result = .done ∧ s.sameControl t ∧ s.diag <+: t.diag ∧
      t.placed = s.placed + 336 * (ts.filter fun x => x.taddr != s.params.decTaddr).length ∧
      s.sameCellsOutside t (fun a => ∃ x ∈ ts, x.taddr ≠ s.params.decTaddr ∧
        ∃ i n, 1 ≤ i ∧ i ≤ 7 ∧ n ≤ 15 ∧ a = x.taddr + i * 256 + n) ∧
      (s.params.acceptsAll → t.diag = s.diag ∧ ∀ x before after i n, ts = before ++ x :: after →
        (∀ y ∈ after, y.taddr ≠ x.taddr) → x.taddr ≠ s.params.decTaddr → 1 ≤ i → i ≤ 7 → n ≤ 15 →
        t.holdsWord (x.taddr + i * 256 + n) x.cw)) ∧
  (∀ (s : State) (x : TemplateEntry) (els : List RawElement), s.params.template = x.raw :: els →
    x.taddr ≠ s.params.decTaddr → (65535 < x.taddr ∨ x.taddr / 256 % 8 ≠ 0 ∨ x.taddr % 16 ≠ 0) →
    exec .jseq s = .next { s with result := .fault (.fieldOverlap (.operand .taddr) (.num x.taddr)) })

/-- For every state: whenever JSEQ or JDEC answers a next state, every cell of an address with a[10:8] = 0 is as
before. The spec says it for a validated template and JUMP_BASE; that it holds in a direct call on others too rests on
the model's choice of what such a call does (logs 15 and 16). (43_jump_expander.md, selector 0 is never generated) -/
def Obligations.SelectorZeroIsNeverGenerated : Prop :=
  ∀ (s t : State) (c a : Nat), c < 3 → a / 256 % 8 = 0 → (exec .jseq s = .next t ∨ exec .jdec s = .next t) →
    t.cell c a = s.cell c a

/-- For every state: whenever JSEQ answers a next state, every cell of an address a with a & 0xF8F0 = DEC_TADDR =
JUMP_BASE + 0x0030 is as before. (43_jump_expander.md, the decision step is not copied, 92_eei_decisions.md D6) -/
def Obligations.DecisionStepIsNotCopied : Prop :=
  ∀ (s t : State) (c a : Nat), c < 3 → a &&& 0xF8F0 = s.params.jumpBase + 0x0030 → exec .jseq s = .next t →
    t.cell c a = s.cell c a

/-- For every state with a JUMP_BASE that VALIDATE passes and container values for the two words, JDEC answers a next
state with 168 more placements; the Finished mark (log 20), parameters and pending calls as before, DIAG only
extended, every cell outside JUMP_BASE + 0x0030 + i*256 + j*2 (i from 1 to 7, j up to 7) as before; and where the
medium accepts everything, DIAG as before and each of those addresses holds CW_CONTINUE if i AND j is not zero, else
CW_ABORT. That the Finished mark stays is the model's choice (log 20). (43_jump_expander.md, JDEC) -/
def Obligations.JdecWritesTheTruthTable : Prop :=
  ∀ s : State, s.params.jumpBase ≤ 65535 → s.params.jumpBase % 2048 = 0 → s.params.cwContinue < 2 ^ 32 →
    s.params.cwAbort < 2 ^ 32 →
    ∃ t, exec .jdec s = .next t ∧ t.result = .done ∧ t.placed = s.placed + 168 ∧ s.sameControl t ∧ s.diag <+: t.diag ∧
      s.sameCellsOutside t (fun a => ∃ i j, 1 ≤ i ∧ i ≤ 7 ∧ j ≤ 7 ∧ a = s.params.jumpBase + 0x0030 + i * 256 + j * 2) ∧
      (s.params.acceptsAll → t.diag = s.diag ∧ ∀ i j, 1 ≤ i → i ≤ 7 → j ≤ 7 →
        t.holdsWord (s.params.jumpBase + 0x0030 + i * 256 + j * 2)
          (if i &&& j ≠ 0 then s.params.cwContinue else s.params.cwAbort))

/-- The model's reading of the 56 rows (log 5): for every decision-cell instruction (jdecI1J0 to jdecI7J7) of selector
i and flag pattern j and every state with a JUMP_BASE that VALIDATE passes and container values for the two words, it
answers a next state: 3 more placements, every cell outside JUMP_BASE + 0x0030 + i*256 + j*2, the Finished mark (log
20), parameters and pending calls as before; where the medium accepts everything, DIAG as before and that address
holds CW_CONTINUE if i AND j is not zero, else CW_ABORT. That the Finished mark stays is the model's choice (log 20).
(43_jump_expander.md, JDEC, spec/opcode_table.json rows JDEC.i1.j0 to JDEC.i7.j7) -/
def Obligations.DecisionCellRowsEmitOneCell : Prop :=
  ∀ (ins : Instr) (i j : Nat) (s : State), decisionCellOf ins = some (i, j) → s.params.jumpBase ≤ 65535 →
    s.params.jumpBase % 2048 = 0 → s.params.cwContinue < 2 ^ 32 → s.params.cwAbort < 2 ^ 32 →
    (1 ≤ i ∧ i ≤ 7 ∧ j ≤ 7) ∧
    ∃ t, exec ins s = .next t ∧ t.result = .done ∧ t.placed = s.placed + 3 ∧ s.sameControl t ∧ s.diag <+: t.diag ∧
      s.sameCellsOutside t (fun a => a = s.params.jumpBase + 0x0030 + i * 256 + j * 2) ∧
      (s.params.acceptsAll → t.diag = s.diag ∧ t.holdsWord (s.params.jumpBase + 0x0030 + i * 256 + j * 2)
        (if i &&& j ≠ 0 then s.params.cwContinue else s.params.cwAbort))

/-- The model's choice (log 16): for every state where JUMP_BASE + 0x0030 is above 65535 or has a selector or nibble
bit set, JDEC returns FieldOverlap of that template-step address and changes nothing else; no carried sum is computed.
(43_jump_expander.md, JDEC, 70_reset_and_hazards.md section 3, template addresses must leave room) -/
def Obligations.JdecRejectsUnvalidatedBase : Prop :=
  ∀ s : State, (65535 < s.params.jumpBase + 0x0030 ∨ (s.params.jumpBase + 0x0030) / 256 % 8 ≠ 0 ∨
      (s.params.jumpBase + 0x0030) % 16 ≠ 0) →
    exec .jdec s =
      .next { s with result := .fault (.fieldOverlap (.operand .taddr) (.num (s.params.jumpBase + 0x0030))) }

/-- For every state with a JUMP_BASE that VALIDATE passes from which JSEQ answers t and JDEC answers u: every cell of
a chip reads in t or in u as before; a cell that t changes has an address with selector bits 1 to 7 whose template-
step address is not DEC_TADDR = JUMP_BASE + 0x0030, and a cell that u changes has one whose template-step address is
DEC_TADDR. (43_jump_expander.md, address sets of the two passes) -/
def Obligations.PassAddressSetsAreDisjoint : Prop :=
  ∀ (s t u : State) (c a : Nat), s.params.jumpBase ≤ 65535 → s.params.jumpBase % 2048 = 0 → c < 3 →
    exec .jseq s = .next t → exec .jdec s = .next u →
    (t.cell c a = s.cell c a ∨ u.cell c a = s.cell c a) ∧
    (t.cell c a ≠ s.cell c a → a < 65536 ∧ 1 ≤ a / 256 % 8 ∧ a &&& 0xF8F0 ≠ s.params.jumpBase + 0x0030) ∧
    (u.cell c a ≠ s.cell c a → a < 65536 ∧ 1 ≤ a / 256 % 8 ∧ a &&& 0xF8F0 = s.params.jumpBase + 0x0030)

/-- For every state, VALIDATE answers a next state that differs in the result only: done when the parameters meet
every constraint of the parameter table (layout, every table and template element well formed and in range, JUMP_BASE
with bits 10:0 zero, words below 2^24 and different, fill bytes), and otherwise the fault f that the check of the
parameters reports (which one is a statement of its own, FirstViolationIsReported). (44_generate_and_lookup.md,
VALIDATE, 00_scope.md section 5) -/
def Obligations.ValidatePassesExactly : Prop :=
  ∀ s : State,
    (s.params.meetsConstraints → exec .validate s = .next { s with result := .done }) ∧
    (¬ s.params.meetsConstraints → ∃ f, validate s.params = some f ∧ exec .validate s = .next { s with result := .fault f })

/-- For all parameters. A layout whose first offending field in row order is f: FieldOverlap("CWL", f) (which field a
bad layout is reported by is the model's choice, log 17). A valid layout, and a TABLE of well-formed in-range elements
followed by an offending one at index k: MalformedEntry("TABLE", k) when it is not form-conforming, or FieldOverlap of
its first component out of range in the order opc, am, pf, step, cond, cw. Layout and TABLE in order, and such a
JUMP_TEMPLATE: MalformedEntry("JUMP_TEMPLATE", k), or FieldOverlap of its taddr, or else of its cw. Layout and lists
in order: FieldOverlap of JUMP_BASE, else of CW_CONTINUE, else of CW_ABORT, else MalformedEntry("decision words", 0)
when the two are equal, else FieldOverlap of FILL[0], else FILL[1], else FILL[2], else no fault.
(44_generate_and_lookup.md, VALIDATE, 60_exceptions.md, priority when several violations exist, 92_eei_decisions.md
D16) -/
def Obligations.FirstViolationIsReported : Prop :=
  ∀ p : Params,
    (∀ before f after, rowOrder = before ++ f :: after → (∀ g ∈ before, p.cwl.offends g = false) →
      p.cwl.offends f = true → validate p = some (.fieldOverlap .layout (.field f))) ∧
    (∀ before el after, p.cwl.valid = true → p.table = before ++ el :: after → tableInRange before →
      (parseEntry el = none → validate p = some (.malformedEntry .table before.length)) ∧
      (∀ e, parseEntry el = some e →
        (15 < e.opc → validate p = some (.fieldOverlap (.element .table before.length .opc) (.num e.opc))) ∧
        (e.opc ≤ 15 → 1 < e.am → validate p = some (.fieldOverlap (.element .table before.length .am) (.num e.am))) ∧
        (e.opc ≤ 15 → e.am ≤ 1 → 1 < e.pf →
          validate p = some (.fieldOverlap (.element .table before.length .pf) (.num e.pf))) ∧
        (e.opc ≤ 15 → e.am ≤ 1 → e.pf ≤ 1 → 15 < e.step →
          validate p = some (.fieldOverlap (.element .table before.length .step) (.num e.step))) ∧
        (∀ n, e.opc ≤ 15 → e.am ≤ 1 → e.pf ≤ 1 → e.step ≤ 15 → e.cond = .only n → 15 < n →
          validate p = some (.fieldOverlap (.element .table before.length .cond) (.num n))) ∧
        (e.opc ≤ 15 → e.am ≤ 1 → e.pf ≤ 1 → e.step ≤ 15 → (∀ n, e.cond = .only n → n ≤ 15) → 2 ^ 24 ≤ e.cw →
          validate p = some (.fieldOverlap (.element .table before.length .cw) (.num e.cw))))) ∧
    (∀ before el after, p.cwl.valid = true → tableInRange p.table → p.template = before ++ el :: after →
      templateInRange before →
      (parseTemplate el = none → validate p = some (.malformedEntry .jumpTemplate before.length)) ∧
      (∀ t, parseTemplate el = some t →
        (65535 < t.taddr ∨ t.taddr / 256 % 8 ≠ 0 ∨ t.taddr % 16 ≠ 0 →
          validate p = some (.fieldOverlap (.element .jumpTemplate before.length .taddr) (.num t.taddr))) ∧
        (t.taddr ≤ 65535 → t.taddr / 256 % 8 = 0 → t.taddr % 16 = 0 → 2 ^ 24 ≤ t.cw →
          validate p = some (.fieldOverlap (.element .jumpTemplate before.length .cw) (.num t.cw))))) ∧
    (p.cwl.valid = true → tableInRange p.table → templateInRange p.template → validate p =
      if 65535 < p.jumpBase ∨ p.jumpBase % 2048 ≠ 0 then some (.fieldOverlap (.operand .jumpBase) (.num p.jumpBase))
      else if 2 ^ 24 ≤ p.cwContinue then some (.fieldOverlap (.operand .cwContinue) (.num p.cwContinue))
      else if 2 ^ 24 ≤ p.cwAbort then some (.fieldOverlap (.operand .cwAbort) (.num p.cwAbort))
      else if p.cwContinue = p.cwAbort then some (.malformedEntry .decisionWords 0)
      else if 256 ≤ p.fill0 then some (.fieldOverlap (.fill 0) (.num p.fill0))
      else if 256 ≤ p.fill1 then some (.fieldOverlap (.fill 1) (.num p.fill1))
      else if 256 ≤ p.fill2 then some (.fieldOverlap (.fill 2) (.num p.fill2))
      else none)

/-- For every state whose parameters VALIDATE rejects with fault f, GENERATE answers a next state with outcome
Fatal(f), f as the result, every cell unwritten, DIAG empty, no placement made, parameters and pending calls as
before; every read of it is refused. (R116) -/
def Obligations.FatalFaultDeliversNoImage : Prop :=
  ∀ (s : State) (f : SpecFault), validate s.params = some f →
    ∃ t, exec .generate s = .next t ∧ t.finished = false ∧ t.result = .fatal f ∧ t.diag = [] ∧ t.placed = 0 ∧
      t.params = s.params ∧ t.calls = s.calls ∧ (∀ c a, c < 3 → t.cell c a = none) ∧
      (∀ a, a < 65536 → exec (.lookup a) t = .refused .readBeforeFinished ∧
        ∀ c, c < 3 → exec (.imgread c a) t = .refused .readBeforeFinished)

/-- For every state whose parameters meet the constraints, EXPAND.TABLE, JSEQ and JDEC run one after the other from
the state with every cell unwritten, DIAG empty and no placement made each answer a next state, and GENERATE answers
the last of them with outcome Finished: parameters and pending calls as before, every record of DIAG naming an
existing cell, the images in canonical form, and DIAG empty where the medium accepts everything. Where VALIDATE raises
f, GENERATE answers the state with every cell unwritten, DIAG empty, no placement made and outcome Fatal(f). (R101) -/
def Obligations.GenerateRunsThePassesInOrder : Prop :=
  ∀ s : State,
    (s.params.meetsConstraints → ∃ t1 t2 t3 t,
      exec .expandTable { s with img0 := [], img1 := [], img2 := [], diag := [], placed := 0, finished := false } = .next t1 ∧
      exec .jseq t1 = .next t2 ∧ exec .jdec t2 = .next t3 ∧ t = { t3 with finished := true, result := .finished } ∧
      exec .generate s = .next t ∧ t.params = s.params ∧ t.calls = s.calls ∧ t.memoryWf = true ∧
      (∀ r ∈ t.diag, r.inRange = true) ∧ (s.params.acceptsAll → t.diag = [])) ∧
    (∀ f, validate s.params = some f → exec .generate s = .next
      { s with img0 := [], img1 := [], img2 := [], diag := [], placed := 0, finished := false, result := .fatal f })

/-- For any two states with the same parameters and the same pending calls, GENERATE answers the same, whatever the
images, DIAG, placement count, Finished mark and result were before. (10_state.md section 4, reset values,
92_eei_decisions.md D18) -/
def Obligations.GenerateForgetsEarlierState : Prop :=
  ∀ s t : State, s.params = t.params → s.calls = t.calls → exec .generate s = exec .generate t

/-- For every state whose parameters meet the constraints and whose medium accepts every placement, GENERATE answers a
next state with outcome Finished from which LOOKUP of every 16-bit address returns RESOLVE of it: the decision word,
else the last template entry copied there, else the last table entry that names it, else the fill word. (R107) -/
def Obligations.LookupAfterGenerateIsResolve : Prop :=
  ∀ s : State, s.params.meetsConstraints → s.params.acceptsAll →
    ∃ t, exec .generate s = .next t ∧ t.finished = true ∧
      ∀ a, a < 65536 → exec (.lookup a) t = .next { t with result := .word (s.params.resolve a) }

/-- For every state whose parameters meet the constraints, GENERATE answers a next state from which LOOKUP of every
address up to 65535 returns a word below 2^24. (R103) -/
def Obligations.LookupIsTotalAfterGenerate : Prop :=
  ∀ s : State, s.params.meetsConstraints → ∃ t, exec .generate s = .next t ∧
    ∀ a, a ≤ 65535 → ∃ w, w < 2 ^ 24 ∧ exec (.lookup a) t = .next { t with result := .word w }

/-- For every state whose parameters meet the constraints and whose medium accepts every placement, GENERATE answers a
next state with outcome Finished whose three finished images have 65536 bytes each, and byte n of image c is bits 8c
to 8c+7 of RESOLVE(n). (44_generate_and_lookup.md, the output contract, 95_test_vectors.md section 6) -/
def Obligations.FinishedImagesHoldTheLanes : Prop :=
  ∀ s : State, s.params.meetsConstraints → s.params.acceptsAll →
    ∃ t, exec .generate s = .next t ∧ t.finished = true ∧ ∀ c, c < 3 → (t.finishedImage c).length = 65536 ∧
      ∀ n, n < 65536 → (t.finishedImage c)[n]? = some (s.params.resolve n / 2 ^ (8 * c) % 256)

/-- For every state whose parameters meet the constraints, GENERATE answers a next state where the cell at JUMP_BASE +
0x0031 + i*256 + j*2 (i from 1 to 7, j up to 7) of any chip is unwritten, unless i is 1 and some table entry names
that address. (43_jump_expander.md, the decision cells JDEC does not write, 70_reset_and_hazards.md section 3,
interrupt-pending at the decision step) -/
def Obligations.InterruptPendingDecisionCells : Prop :=
  ∀ s : State, s.params.meetsConstraints → ∃ t, exec .generate s = .next t ∧
    ∀ i j c, 1 ≤ i → i ≤ 7 → j ≤ 7 → c < 3 →
      t.cell c (s.params.jumpBase + 0x0031 + i * 256 + j * 2) ≠ none →
      i = 1 ∧ ∃ e ∈ s.params.entries, e.names (s.params.jumpBase + 0x0031 + i * 256 + j * 2) = true

/-- The model's reading of the rows MA-G.opc, MA-G.am, MA-G.rsv, MA-G.pf, MA-G.step, MA-G.cond and MA-J.sel (log 4):
for every 16-bit address and every state each answers a next state that differs in the result only, the field's bits;
above 65535 each returns FieldOverlap of the address. (30_encoding.md section 1, formats MA-G and MA-J,
40_address_codec.md) -/
def Obligations.AddressFieldRowsReadTheirBits : Prop :=
  (∀ (a : Nat) (s : State), a ≤ 65535 →
    exec (.magOpc a) s = .next { s with result := .field (a / 4096) } ∧
    exec (.magAm a) s = .next { s with result := .field (a / 2048 % 2) } ∧
    exec (.magRsv a) s = .next { s with result := .field (a / 512 % 4) } ∧
    exec (.magPf a) s = .next { s with result := .field (a / 256 % 2) } ∧
    exec (.magStep a) s = .next { s with result := .field (a / 16 % 16) } ∧
    exec (.magCond a) s = .next { s with result := .field (a % 16) } ∧
    exec (.majSel a) s = .next { s with result := .field (a / 256 % 8) }) ∧
  (∀ (a : Nat) (s : State), 65535 < a →
    exec (.magOpc a) s =
      .next { s with result := .fault (.fieldOverlap (.operand .address) (.num a)) } ∧
    exec (.magAm a) s =
      .next { s with result := .fault (.fieldOverlap (.operand .address) (.num a)) } ∧
    exec (.magRsv a) s =
      .next { s with result := .fault (.fieldOverlap (.operand .address) (.num a)) } ∧
    exec (.magPf a) s =
      .next { s with result := .fault (.fieldOverlap (.operand .address) (.num a)) } ∧
    exec (.magStep a) s =
      .next { s with result := .fault (.fieldOverlap (.operand .address) (.num a)) } ∧
    exec (.magCond a) s =
      .next { s with result := .fault (.fieldOverlap (.operand .address) (.num a)) } ∧
    exec (.majSel a) s =
      .next { s with result := .fault (.fieldOverlap (.operand .address) (.num a)) })

/-- The model's reading of the rows MA-G and MA-J (log 4): for every 16-bit address and every state each answers a
next state that differs in the result only, with the fields of its view; MA-J applies exactly when a[15:11] =
JUMP_BASE[15:11] and MA-G exactly otherwise; above 65535 both return FieldOverlap of the address. (30_encoding.md
section 1, which format applies, 92_eei_decisions.md D7) -/
def Obligations.FormatRowsTellWhichFormatApplies : Prop :=
  ∀ (a : Nat) (s : State),
    (a ≤ 65535 →
      exec (.formatMaG a) s = .next { s with
      result := .formatG (decide (a / 2048 ≠ s.params.jumpBase / 2048 % 32))
        ⟨a / 4096, a / 2048 % 2, a / 512 % 4, a / 256 % 2, a / 16 % 16, a % 16⟩ } ∧
      exec (.formatMaJ a) s = .next { s with
      result := .formatJ (decide (a / 2048 = s.params.jumpBase / 2048 % 32))
        ⟨a / 2048 * 2048 + a / 16 % 16 * 16, ⟨BitVec.ofNat 3 (a / 256)⟩, a / 16 % 16, a % 16, ⟨BitVec.ofNat 3 (a / 2)⟩,
          a % 2⟩ }) ∧
    (65535 < a → exec (.formatMaG a) s = .next { s with result := .fault (.fieldOverlap (.operand .address) (.num a)) } ∧
      exec (.formatMaJ a) s = .next { s with result := .fault (.fieldOverlap (.operand .address) (.num a)) })

/-- The model's reading of the rows cond[0] to cond[3] (log 4): for every 16-bit address and every state each answers
a next state that differs in the result only, naming its status bit and whether its address bit is set; above 65535
each returns FieldOverlap of the address. (30_encoding.md section 1, bits of the condition nibble, 92_eei_decisions.md
D23) -/
def Obligations.ConditionBitRowsReadTheNibble : Prop :=
  (∀ (a : Nat) (s : State), a ≤ 65535 →
    exec (.cond0 a) s = .next { s with result := .status .interruptPending (decide (a % 2 = 1)) } ∧
    exec (.cond1 a) s = .next { s with result := .status .carry (decide (a / 2 % 2 = 1)) } ∧
    exec (.cond2 a) s = .next { s with result := .status .negative (decide (a / 4 % 2 = 1)) } ∧
    exec (.cond3 a) s = .next { s with result := .status .zero (decide (a / 8 % 2 = 1)) }) ∧
  (∀ (a : Nat) (s : State), 65535 < a →
    exec (.cond0 a) s =
      .next { s with result := .fault (.fieldOverlap (.operand .address) (.num a)) } ∧
    exec (.cond1 a) s =
      .next { s with result := .fault (.fieldOverlap (.operand .address) (.num a)) } ∧
    exec (.cond2 a) s =
      .next { s with result := .fault (.fieldOverlap (.operand .address) (.num a)) } ∧
    exec (.cond3 a) s =
      .next { s with result := .fault (.fieldOverlap (.operand .address) (.num a)) })

/-- The model's reading of the rows SEL=0 to SEL=7 (log 4): for every 16-bit address and every state each answers a
next state that differs in the result only: whether a[10:8] is the value, and which of carry, negative, zero it tests
(bit 0 carry, bit 1 negative, bit 2 zero); above 65535 each returns FieldOverlap of the address. (30_encoding.md
section 1, bits of the flag pattern and of the selector) -/
def Obligations.SelectorRowsNameTheTestedFlags : Prop :=
  (∀ (a : Nat) (s : State), a ≤ 65535 →
    exec (.sel0 a) s =
      .next { s with result := .selector (decide (a / 256 % 8 = 0)) false false false } ∧
    exec (.sel1 a) s =
      .next { s with result := .selector (decide (a / 256 % 8 = 1)) true false false } ∧
    exec (.sel2 a) s =
      .next { s with result := .selector (decide (a / 256 % 8 = 2)) false true false } ∧
    exec (.sel3 a) s =
      .next { s with result := .selector (decide (a / 256 % 8 = 3)) true true false } ∧
    exec (.sel4 a) s =
      .next { s with result := .selector (decide (a / 256 % 8 = 4)) false false true } ∧
    exec (.sel5 a) s =
      .next { s with result := .selector (decide (a / 256 % 8 = 5)) true false true } ∧
    exec (.sel6 a) s =
      .next { s with result := .selector (decide (a / 256 % 8 = 6)) false true true } ∧
    exec (.sel7 a) s =
      .next { s with result := .selector (decide (a / 256 % 8 = 7)) true true true }) ∧
  (∀ (a : Nat) (s : State), 65535 < a →
    exec (.sel0 a) s =
      .next { s with result := .fault (.fieldOverlap (.operand .address) (.num a)) } ∧
    exec (.sel1 a) s =
      .next { s with result := .fault (.fieldOverlap (.operand .address) (.num a)) } ∧
    exec (.sel2 a) s =
      .next { s with result := .fault (.fieldOverlap (.operand .address) (.num a)) } ∧
    exec (.sel3 a) s =
      .next { s with result := .fault (.fieldOverlap (.operand .address) (.num a)) } ∧
    exec (.sel4 a) s =
      .next { s with result := .fault (.fieldOverlap (.operand .address) (.num a)) } ∧
    exec (.sel5 a) s =
      .next { s with result := .fault (.fieldOverlap (.operand .address) (.num a)) } ∧
    exec (.sel6 a) s =
      .next { s with result := .fault (.fieldOverlap (.operand .address) (.num a)) } ∧
    exec (.sel7 a) s =
      .next { s with result := .fault (.fieldOverlap (.operand .address) (.num a)) })

/-- The model's reading of the rows CW.NEXT_STEP to CW.IO_WE (log 4): for every container value and every state each
answers a next state that differs in the result only, the field's bits at the position of the parameter CWL; from 2^32
on each returns FieldOverlap of the word. That it is so under a layout that VALIDATE rejects too is the model's choice
(log 29). (30_encoding.md section 2, the layout parameter CWL, 41_control_word_codec.md, CWUNPACK) -/
def Obligations.ControlFieldRowsReadTheLayout : Prop :=
  (∀ (w : Nat) (s : State), w < 2 ^ 32 →
    exec (.cwNextStep w) s = .next { s with result := .field (w / 2 ^ s.params.cwl.lo .nextStep % 16) } ∧
    exec (.cwLdAddrHi w) s = .next { s with result := .field (w / 2 ^ s.params.cwl.lo .ldAddrHi % 2) } ∧
    exec (.cwLdAddrLo w) s = .next { s with result := .field (w / 2 ^ s.params.cwl.lo .ldAddrLo % 2) } ∧
    exec (.cwMemOe w) s = .next { s with result := .field (w / 2 ^ s.params.cwl.lo .memOe % 2) } ∧
    exec (.cwMemWe w) s = .next { s with result := .field (w / 2 ^ s.params.cwl.lo .memWe % 2) } ∧
    exec (.cwLdIr w) s = .next { s with result := .field (w / 2 ^ s.params.cwl.lo .ldIr % 2) } ∧
    exec (.cwLdA w) s = .next { s with result := .field (w / 2 ^ s.params.cwl.lo .ldA % 2) } ∧
    exec (.cwLdB w) s = .next { s with result := .field (w / 2 ^ s.params.cwl.lo .ldB % 2) } ∧
    exec (.cwLdRes w) s = .next { s with result := .field (w / 2 ^ s.params.cwl.lo .ldRes % 2) } ∧
    exec (.cwResOe w) s = .next { s with result := .field (w / 2 ^ s.params.cwl.lo .resOe % 2) } ∧
    exec (.cwAluOp w) s = .next { s with result := .field (w / 2 ^ s.params.cwl.lo .aluOp % 8) } ∧
    exec (.cwLdPcHi w) s = .next { s with result := .field (w / 2 ^ s.params.cwl.lo .ldPcHi % 2) } ∧
    exec (.cwLdPcLo w) s = .next { s with result := .field (w / 2 ^ s.params.cwl.lo .ldPcLo % 2) } ∧
    exec (.cwPcHiOe w) s = .next { s with result := .field (w / 2 ^ s.params.cwl.lo .pcHiOe % 2) } ∧
    exec (.cwPcLoOe w) s = .next { s with result := .field (w / 2 ^ s.params.cwl.lo .pcLoOe % 2) } ∧
    exec (.cwIncPc w) s = .next { s with result := .field (w / 2 ^ s.params.cwl.lo .incPc % 2) } ∧
    exec (.cwLdIo w) s = .next { s with result := .field (w / 2 ^ s.params.cwl.lo .ldIo % 2) } ∧
    exec (.cwIoOe w) s = .next { s with result := .field (w / 2 ^ s.params.cwl.lo .ioOe % 2) } ∧
    exec (.cwIoWe w) s = .next { s with result := .field (w / 2 ^ s.params.cwl.lo .ioWe % 2) }) ∧
  (∀ (w : Nat) (s : State), 2 ^ 32 ≤ w →
    exec (.cwNextStep w) s =
      .next { s with result := .fault (.fieldOverlap (.operand .cw) (.num w)) } ∧
    exec (.cwLdAddrHi w) s =
      .next { s with result := .fault (.fieldOverlap (.operand .cw) (.num w)) } ∧
    exec (.cwLdAddrLo w) s =
      .next { s with result := .fault (.fieldOverlap (.operand .cw) (.num w)) } ∧
    exec (.cwMemOe w) s =
      .next { s with result := .fault (.fieldOverlap (.operand .cw) (.num w)) } ∧
    exec (.cwMemWe w) s =
      .next { s with result := .fault (.fieldOverlap (.operand .cw) (.num w)) } ∧
    exec (.cwLdIr w) s =
      .next { s with result := .fault (.fieldOverlap (.operand .cw) (.num w)) } ∧
    exec (.cwLdA w) s =
      .next { s with result := .fault (.fieldOverlap (.operand .cw) (.num w)) } ∧
    exec (.cwLdB w) s =
      .next { s with result := .fault (.fieldOverlap (.operand .cw) (.num w)) } ∧
    exec (.cwLdRes w) s =
      .next { s with result := .fault (.fieldOverlap (.operand .cw) (.num w)) } ∧
    exec (.cwResOe w) s =
      .next { s with result := .fault (.fieldOverlap (.operand .cw) (.num w)) } ∧
    exec (.cwAluOp w) s =
      .next { s with result := .fault (.fieldOverlap (.operand .cw) (.num w)) } ∧
    exec (.cwLdPcHi w) s =
      .next { s with result := .fault (.fieldOverlap (.operand .cw) (.num w)) } ∧
    exec (.cwLdPcLo w) s =
      .next { s with result := .fault (.fieldOverlap (.operand .cw) (.num w)) } ∧
    exec (.cwPcHiOe w) s =
      .next { s with result := .fault (.fieldOverlap (.operand .cw) (.num w)) } ∧
    exec (.cwPcLoOe w) s =
      .next { s with result := .fault (.fieldOverlap (.operand .cw) (.num w)) } ∧
    exec (.cwIncPc w) s =
      .next { s with result := .fault (.fieldOverlap (.operand .cw) (.num w)) } ∧
    exec (.cwLdIo w) s =
      .next { s with result := .fault (.fieldOverlap (.operand .cw) (.num w)) } ∧
    exec (.cwIoOe w) s =
      .next { s with result := .fault (.fieldOverlap (.operand .cw) (.num w)) } ∧
    exec (.cwIoWe w) s =
      .next { s with result := .fault (.fieldOverlap (.operand .cw) (.num w)) })

/-- The model's reading of the rows ALU_NOP to ALU_AND and CW (log 4): for every container value and every state each
ALU row answers a next state that differs in the result only, whether the three bits of ALU_OP are its code 0 to 7;
the row CW, under a layout whose named lanes have indices below 3, returns the bytes of the sequencer, datapath and
control lanes; from 2^32 on each returns FieldOverlap of the word. That it is so under a layout that VALIDATE rejects
too is the model's choice (log 29). (30_encoding.md section 2, values of ALU_OP and format CW) -/
def Obligations.AluRowsAndFormatRowReadTheWord : Prop :=
  (∀ (w : Nat) (s : State), w < 2 ^ 32 →
    exec (.aluNop w) s =
      .next { s with result := .alu .nop (decide (w / 2 ^ s.params.cwl.lo .aluOp % 8 = 0)) } ∧
    exec (.aluShift w) s =
      .next { s with result := .alu .shift (decide (w / 2 ^ s.params.cwl.lo .aluOp % 8 = 1)) } ∧
    exec (.aluAdd w) s =
      .next { s with result := .alu .add (decide (w / 2 ^ s.params.cwl.lo .aluOp % 8 = 2)) } ∧
    exec (.aluSub w) s =
      .next { s with result := .alu .sub (decide (w / 2 ^ s.params.cwl.lo .aluOp % 8 = 3)) } ∧
    exec (.aluInv w) s =
      .next { s with result := .alu .inv (decide (w / 2 ^ s.params.cwl.lo .aluOp % 8 = 4)) } ∧
    exec (.aluXor w) s =
      .next { s with result := .alu .xor (decide (w / 2 ^ s.params.cwl.lo .aluOp % 8 = 5)) } ∧
    exec (.aluOr w) s =
      .next { s with result := .alu .or (decide (w / 2 ^ s.params.cwl.lo .aluOp % 8 = 6)) } ∧
    exec (.aluAnd w) s =
      .next { s with result := .alu .and (decide (w / 2 ^ s.params.cwl.lo .aluOp % 8 = 7)) }) ∧
  (∀ (w : Nat) (s : State), w < 2 ^ 32 → s.params.cwl.laneOf .sequencer < 3 → s.params.cwl.laneOf .datapath < 3 →
    s.params.cwl.laneOf .control < 3 →
    exec (.formatCw w) s = .next { s with
      result := .lanes (w / 2 ^ (8 * s.params.cwl.laneOf .sequencer) % 256)
        (w / 2 ^ (8 * s.params.cwl.laneOf .datapath) % 256) (w / 2 ^ (8 * s.params.cwl.laneOf .control) % 256) }) ∧
  (∀ (w : Nat) (s : State), 2 ^ 32 ≤ w →
    exec (.aluNop w) s =
      .next { s with result := .fault (.fieldOverlap (.operand .cw) (.num w)) } ∧
    exec (.aluShift w) s =
      .next { s with result := .fault (.fieldOverlap (.operand .cw) (.num w)) } ∧
    exec (.aluAdd w) s =
      .next { s with result := .fault (.fieldOverlap (.operand .cw) (.num w)) } ∧
    exec (.aluSub w) s =
      .next { s with result := .fault (.fieldOverlap (.operand .cw) (.num w)) } ∧
    exec (.aluInv w) s =
      .next { s with result := .fault (.fieldOverlap (.operand .cw) (.num w)) } ∧
    exec (.aluXor w) s =
      .next { s with result := .fault (.fieldOverlap (.operand .cw) (.num w)) } ∧
    exec (.aluOr w) s =
      .next { s with result := .fault (.fieldOverlap (.operand .cw) (.num w)) } ∧
    exec (.aluAnd w) s =
      .next { s with result := .fault (.fieldOverlap (.operand .cw) (.num w)) } ∧
    exec (.formatCw w) s =
      .next { s with result := .fault (.fieldOverlap (.operand .cw) (.num w)) })

/-- For every call of ENCODE, DECODE, ENCODEJ, DECODEJ, LANEBYTE, LANEJOIN, CWPACK, CWUNPACK and the reading rows
(formats, fields, bits, values: log 4), on any operands and in any state, exec answers a next state equal to the state
but for the result: images, DIAG, count, the Finished mark (log 20), parameters and pending calls are untouched,
whether it returns a value or a fault. (60_exceptions.md, faults of a pure function called alone, 40_address_codec.md,
41_control_word_codec.md) -/
def Obligations.PureCallsTouchOnlyTheResult : Prop :=
  ∀ (i : Instr) (s : State), pureCall i = true → ∃ r, exec i s = .next { s with result := r }

/-- For every instruction but GENERATE and every state: when exec answers a next state, the new DIAG is the old one
followed by records whose address is below 65536 and whose chip is below 3, and by no more of them than placements
were counted. (10_state.md section 2, diagnostic list) -/
def Obligations.DiagOnlyGrows : Prop :=
  ∀ (i : Instr) (s t : State), i ≠ .generate → exec i s = .next t →
    ∃ d, t.diag = s.diag ++ d ∧ (∀ r ∈ d, r.address < 65536 ∧ r.chip < 3) ∧ s.placed + d.length ≤ t.placed

/-- For every instruction but GENERATE and every state: when exec answers a next state, a cell that held a byte still
holds one; and if the instruction is none of PLACE, EMIT, the passes and the decision cells, every cell is as before.
(10_state.md section 2, cell values) -/
def Obligations.WrittenCellsStayWritten : Prop :=
  ∀ (i : Instr) (s t : State), i ≠ .generate → exec i s = .next t →
    (∀ c a, c < 3 → s.cell c a ≠ none → t.cell c a ≠ none) ∧
    (storingCall i = false → ∀ c a, c < 3 → t.cell c a = s.cell c a)

/-- For every instruction and every state: when exec answers a next state, the pending calls are as before, and unless
the instruction is GENERATE the Finished mark is as before (for a direct store the model's choice, log 20). A fatal
fault therefore has no return but a new GENERATE. (44_generate_and_lookup.md, GENERATE, 60_exceptions.md, return and
nesting) -/
def Obligations.OnlyGenerateStartsOrEndsARun : Prop :=
  ∀ (i : Instr) (s t : State), exec i s = .next t → t.calls = s.calls ∧ (i ≠ .generate → t.finished = s.finished)

/-- For every state, when step answers a next state its parameters are those before. The step with the parameters as
its argument does not depend on the parameters the state last had, answers the given ones, and step is that function
at the parameters of the state (log 6). (10_state.md section 1, system and control registers, 70_reset_and_hazards.md,
boot requirements) -/
def Obligations.StepNeverWritesParameters : Prop :=
  (∀ s t : State, step s = .next t → t.params = s.params) ∧
  (∀ (p q : Params) (s : State), stepWith p { s with params := q } = stepWith p s) ∧
  (∀ (p : Params) (s t : State), stepWith p s = .next t → t.params = p) ∧
  (∀ s : State, step s = stepWith s.params s)

/-- For every state with canonical images, DIAG records of existing cells and no more of them than placements made,
and parameters that VALIDATE passes if a run has finished: when step answers a next state, that state has all of them
again. (10_state.md section 2, 20_memory.md section 1, 44_generate_and_lookup.md, GENERATE, 60_exceptions.md,
WriteTargetFailure) -/
def Obligations.StepKeepsTheInvariant : Prop :=
  ∀ s t : State, s.Inv → step s = .next t → t.Inv

/-- The state after reset has the invariant, every cell unwritten, DIAG empty, no placement made, FILL 0x00 for each
chip, the default layout and an accepting medium (the defaults are the spec's own choice, log 8). (10_state.md section
4, reset values) -/
def Obligations.ResetMeetsTheInvariant : Prop :=
  State.reset.Inv ∧ (∀ c a, State.reset.cell c a = none) ∧ State.reset.diag = [] ∧ State.reset.placed = 0 ∧
    (∀ c, State.reset.params.fill c = 0) ∧ State.reset.params.cwl = Layout.default ∧ State.reset.params.acceptsAll

/-- For every instruction of the 124 rows whose operands fit their containers, the decoder reads its call frame as
that instruction, with every operand at its value. The frame is the model's own encoding of a host call (log 2).
(30_encoding.md section 7, the operation map, spec/opcode_table.json, all rows) -/
def Obligations.DecodeInvertsEncode : Prop :=
  ∀ i : Instr, i.wellFormed = true → decode (encode i) = .ok i

/-- For every state: with the frame f pending first, step is exec of the instruction f decodes to, on the state with f
removed; where f is no call frame step faults; with no call pending step answers the same state. The list of calls is
the model's own (log 1). (30_encoding.md section 7, the operation map, 44_generate_and_lookup.md, control transfer) -/
def Obligations.StepRunsTheDecodedCall : Prop :=
  ∀ s : State,
    (∀ f rest i, s.calls = f :: rest → decode f = .ok i → step s = exec i { s with calls := rest }) ∧
    (∀ f rest e, s.calls = f :: rest → decode f = .error e → step s = .fault (.badCall e)) ∧
    (s.calls = [] → step s = .next s)

/-- The model's reading of a table word presented as an object without a call code (log 3): 0x0534 as the decision
cell of selector 5 and pattern 2, 0x073E as that of selector 7 and pattern 7, 0xE534 as JDEC, 0x0500 as the selector
value 5, 0x0004 as cond[2], 0xA859 as ENCODE of (10, 1, 0, 5, 9), 0x0620 as an address to DECODE, the 24-bit 0x000200
as the ALU code 2, the 24-bit 0x088216 as CWUNPACK of it. (spec/opcode_table.json, decision cells, address bits and
field values) -/
def Obligations.TableWordsDecodeToTheirRows : Prop :=
  decodeTableWord 16 0x0534 = some .jdecI5J2 ∧ decodeTableWord 16 0x073E = some .jdecI7J7 ∧
    decodeTableWord 16 0xE534 = some .jdec ∧ decodeTableWord 16 0x0500 = some (.sel5 0x0500) ∧
    decodeTableWord 16 0xA859 = some (.encode 10 1 0 5 9) ∧ decodeTableWord 16 0x0620 = some (.decode 0x0620) ∧
    decodeTableWord 16 0x0004 = some (.cond2 4) ∧ decodeTableWord 24 0x000200 = some (.aluAdd 0x000200) ∧
    decodeTableWord 24 0x088216 = some (.cwunpack 0x088216)
end

