-- ==== Sys2Proof/Laws/State.lean ====
section
/-! SUPPORT. One lemma per field per update of the block and of the state, so that no later proof unfolds a record update.
The fields of the block are reached through `toBlock`. -/

namespace Sys2Proof.Machine

section Updates

variable (b : Block) (s : State)

/-! ### returns -/

@[simp] theorem State.returns_toBlock (r : Result) : (s.returns r).toBlock = s.toBlock := rfl
@[simp] theorem State.returns_params (r : Result) : (s.returns r).params = s.params := rfl
@[simp] theorem State.returns_finished (r : Result) : (s.returns r).finished = s.finished := rfl
@[simp] theorem State.returns_calls (r : Result) : (s.returns r).calls = s.calls := rfl
@[simp] theorem State.returns_result (r : Result) : (s.returns r).result = r := rfl

/-! ### takeFault -/

@[simp] theorem State.takeFault_toBlock (f : SpecFault) : (s.takeFault f).toBlock = s.toBlock := rfl
@[simp] theorem State.takeFault_params (f : SpecFault) : (s.takeFault f).params = s.params := rfl
@[simp] theorem State.takeFault_finished (f : SpecFault) : (s.takeFault f).finished = s.finished := rfl
@[simp] theorem State.takeFault_calls (f : SpecFault) : (s.takeFault f).calls = s.calls := rfl
@[simp] theorem State.takeFault_result (f : SpecFault) : (s.takeFault f).result = .fault f := rfl

/-! ### withBlock -/

@[simp] theorem State.withBlock_toBlock : (s.withBlock b).toBlock = b := rfl
@[simp] theorem State.withBlock_params : (s.withBlock b).params = s.params := rfl
@[simp] theorem State.withBlock_finished : (s.withBlock b).finished = s.finished := rfl
@[simp] theorem State.withBlock_calls : (s.withBlock b).calls = s.calls := rfl
@[simp] theorem State.withBlock_result : (s.withBlock b).result = s.result := rfl

/-! ### startRun -/

@[simp] theorem State.startRun_toBlock : (s.startRun).toBlock = Block.reset := rfl
@[simp] theorem State.startRun_params : (s.startRun).params = s.params := rfl
@[simp] theorem State.startRun_finished : (s.startRun).finished = false := rfl
@[simp] theorem State.startRun_calls : (s.startRun).calls = s.calls := rfl
@[simp] theorem State.startRun_result : (s.startRun).result = .nothing := rfl

/-! ### takeFatal -/

@[simp] theorem State.takeFatal_toBlock (f : SpecFault) : (s.takeFatal f).toBlock = Block.reset := rfl
@[simp] theorem State.takeFatal_params (f : SpecFault) : (s.takeFatal f).params = s.params := rfl
@[simp] theorem State.takeFatal_finished (f : SpecFault) : (s.takeFatal f).finished = false := rfl
@[simp] theorem State.takeFatal_calls (f : SpecFault) : (s.takeFatal f).calls = s.calls := rfl
@[simp] theorem State.takeFatal_result (f : SpecFault) : (s.takeFatal f).result = .fatal f := rfl

/-! ### finish -/

@[simp] theorem State.finish_toBlock : (s.finish b).toBlock = b := rfl
@[simp] theorem State.finish_params : (s.finish b).params = s.params := rfl
@[simp] theorem State.finish_finished : (s.finish b).finished = true := rfl
@[simp] theorem State.finish_calls : (s.finish b).calls = s.calls := rfl
@[simp] theorem State.finish_result : (s.finish b).result = .finished := rfl

/-! ### log -/

@[simp] theorem Block.log_img0 (r : WriteTargetFailure) : (b.log r).img0 = b.img0 := rfl
@[simp] theorem Block.log_img1 (r : WriteTargetFailure) : (b.log r).img1 = b.img1 := rfl
@[simp] theorem Block.log_img2 (r : WriteTargetFailure) : (b.log r).img2 = b.img2 := rfl
@[simp] theorem Block.log_diag (r : WriteTargetFailure) : (b.log r).diag = b.diag ++ [r] := rfl
@[simp] theorem Block.log_placed (r : WriteTargetFailure) : (b.log r).placed = b.placed := rfl

/-! ### countPlacement -/

@[simp] theorem Block.countPlacement_img0 : (b.countPlacement).img0 = b.img0 := rfl
@[simp] theorem Block.countPlacement_img1 : (b.countPlacement).img1 = b.img1 := rfl
@[simp] theorem Block.countPlacement_img2 : (b.countPlacement).img2 = b.img2 := rfl
@[simp] theorem Block.countPlacement_diag : (b.countPlacement).diag = b.diag := rfl
@[simp] theorem Block.countPlacement_placed : (b.countPlacement).placed = b.placed + 1 := rfl

/-! ### setCell -/

@[simp] theorem Block.setCell_diag (c a : Nat) (v : Byte) : (b.setCell c a v).diag = b.diag := by
  rcases c with _ | _ | c <;> rfl
@[simp] theorem Block.setCell_placed (c a : Nat) (v : Byte) : (b.setCell c a v).placed = b.placed := by
  rcases c with _ | _ | c <;> rfl

theorem Block.setCell_zero (a : Nat) (v : Byte) : b.setCell 0 a v = { b with img0 := Memory.write b.img0 a v } := rfl
theorem Block.setCell_one (a : Nat) (v : Byte) : b.setCell 1 a v = { b with img1 := Memory.write b.img1 a v } := rfl
theorem Block.setCell_two (a : Nat) (v : Byte) : b.setCell 2 a v = { b with img2 := Memory.write b.img2 a v } := rfl

/-! ### reset -/

@[simp] theorem Block.reset_diag : Block.reset.diag = [] := rfl
@[simp] theorem Block.reset_placed : Block.reset.placed = 0 := rfl

/-! ### cells: updates that leave the images alone -/

@[simp] theorem Block.log_cell (r : WriteTargetFailure) (c a : Nat) : (b.log r).cell c a = b.cell c a := by
  rcases c with _ | _ | c <;> rfl
@[simp] theorem Block.countPlacement_cell (c a : Nat) : b.countPlacement.cell c a = b.cell c a := by
  rcases c with _ | _ | c <;> rfl
@[simp] theorem Block.reset_cell (c a : Nat) : Block.reset.cell c a = none := by
  rcases c with _ | _ | c <;> rfl

end Updates

end Sys2Proof.Machine
end

