-- ==== Sys2Proof/Laws/Memory.lean ====
section
/-! SUPPORT. The image store: read after write, the canonical form, and its uniqueness. -/

namespace Sys2Proof.Machine

@[simp] theorem Memory.read_nil (a : Nat) : Memory.read [] a = none := rfl

/-- A read after a write: the written byte at its address, every other cell as before (20_memory.md R27, R33). -/
theorem Memory.read_write (m : List Host.Cell) (a : Nat) (v : Byte) (b : Nat) :
    Memory.read (Memory.write m a v) b = if b = a then some v else Memory.read m b := by
  induction m with
  | nil => simp [Memory.write, Memory.read, eq_comm]
  | cons x m ih =>
    obtain ⟨c, w⟩ := x
    simp only [Memory.write]
    split
    · simp only [Memory.read, eq_comm (a := b)]
    · split
      · rename_i h; subst h; simp only [Memory.read, eq_comm (a := b)]; split <;> rfl
      · rename_i h1 h2
        simp only [Memory.read, ih]
        split
        · rename_i h; subst h; simp [Ne.symm h2]
        · rfl

@[simp] theorem Memory.wf_nil : Memory.wf [] = true := rfl

/-- The canonical form of a list with a first cell: that cell is in range and below every later one. -/
theorem Memory.wf_cons_iff (a : Nat) (v : Byte) (m : List Host.Cell) :
    Memory.wf ((a, v) :: m) = true ↔ a < Config.imageSize ∧ (∀ x ∈ m, a < x.1) ∧ Memory.wf m = true := by
  induction m generalizing a v with
  | nil => simp [Memory.wf]
  | cons x m ih =>
    obtain ⟨b, w⟩ := x
    simp only [Memory.wf, Bool.and_eq_true, decide_eq_true_eq, ih, List.mem_cons, forall_eq_or_imp]
    constructor
    · rintro ⟨h, hb, hm, hw⟩
      exact ⟨by omega, ⟨h, fun x hx => by have := hm x hx; omega⟩, hb, hm, hw⟩
    · rintro ⟨-, ⟨h, -⟩, hb, hm, hw⟩
      exact ⟨h, hb, hm, hw⟩

/-- Every address of a written list is the new one or an old one. -/
theorem Memory.mem_write {m : List Host.Cell} {a : Nat} {v : Byte} {x : Host.Cell}
    (h : x ∈ Memory.write m a v) : x = (a, v) ∨ x ∈ m := by
  induction m with
  | nil => simpa [Memory.write] using h
  | cons y m ih =>
    obtain ⟨b, w⟩ := y
    simp only [Memory.write] at h
    split at h
    · simpa using h
    · split at h
      · rcases List.mem_cons.1 h with h | h
        · exact .inl h
        · exact .inr (List.mem_cons_of_mem _ h)
      · rcases List.mem_cons.1 h with h | h
        · exact .inr (h ▸ List.mem_cons_self ..)
        · exact (ih h).imp_right (List.mem_cons_of_mem _)

/-- A write below 65536 keeps the canonical form. -/
theorem Memory.wf_write {m : List Host.Cell} (a : Nat) (v : Byte) (ha : a < Config.imageSize)
    (h : Memory.wf m = true) : Memory.wf (Memory.write m a v) = true := by
  induction m with
  | nil => simpa [Memory.write, Memory.wf] using ha
  | cons x m ih =>
    obtain ⟨b, w⟩ := x
    obtain ⟨hb, hm, hw⟩ := (Memory.wf_cons_iff b w m).1 h
    simp only [Memory.write]
    split
    · rename_i hab
      refine (Memory.wf_cons_iff ..).2 ⟨ha, ?_, h⟩
      simp only [List.mem_cons, forall_eq_or_imp]
      exact ⟨hab, fun x hx => by have := hm x hx; omega⟩
    · split
      · rename_i hab; subst hab
        exact (Memory.wf_cons_iff ..).2 ⟨ha, hm, hw⟩
      · rename_i h1 h2
        refine (Memory.wf_cons_iff ..).2 ⟨hb, fun x hx => ?_, ih hw⟩
        rcases Memory.mem_write hx with rfl | hx
        · exact lt_of_le_of_ne (Nat.le_of_not_lt h1) (Ne.symm h2)
        · exact hm x hx

/-- An address below every listed one is `unwritten`. -/
theorem Memory.read_eq_none_of_lt {m : List Host.Cell} {a : Nat} (h : ∀ x ∈ m, a < x.1) : Memory.read m a = none := by
  induction m with
  | nil => rfl
  | cons x m ih =>
    obtain ⟨b, w⟩ := x
    have hb : a < b := h _ (List.mem_cons_self ..)
    simp only [Memory.read, if_neg (Nat.ne_of_lt hb)]
    exact ih fun x hx => h x (List.mem_cons_of_mem _ hx)

/-- A cell that holds a byte is one of the 65536 cells. -/
theorem Memory.lt_of_read {m : List Host.Cell} {a : Nat} {v : Byte} (h : Memory.wf m = true)
    (hr : Memory.read m a = some v) : a < Config.imageSize := by
  induction m with
  | nil => simp at hr
  | cons x m ih =>
    obtain ⟨b, w⟩ := x
    obtain ⟨hb, -, hw⟩ := (Memory.wf_cons_iff b w m).1 h
    simp only [Memory.read] at hr
    split at hr
    · rename_i hba; subst hba; exact hb
    · exact ih hw hr

/-- The canonical form is unique: images with equal cells are equal lists. -/
theorem Memory.ext {m n : List Host.Cell} (hm : Memory.wf m = true) (hn : Memory.wf n = true)
    (h : ∀ a, Memory.read m a = Memory.read n a) : m = n := by
  induction m generalizing n with
  | nil =>
    cases n with
    | nil => rfl
    | cons y n => have := h y.1; simp [Memory.read] at this
  | cons x m ih =>
    obtain ⟨a, v⟩ := x
    obtain ⟨-, ham, hwm⟩ := (Memory.wf_cons_iff a v m).1 hm
    cases n with
    | nil => have := h a; simp [Memory.read] at this
    | cons y n =>
      obtain ⟨b, w⟩ := y
      obtain ⟨-, hbn, hwn⟩ := (Memory.wf_cons_iff b w n).1 hn
      have hab : a = b := by
        rcases Nat.lt_trichotomy a b with hlt | heq | hgt
        · have := h a
          rw [Memory.read_eq_none_of_lt (m := (b, w) :: n) (by
            simp only [List.mem_cons, forall_eq_or_imp]
            exact ⟨hlt, fun x hx => Nat.lt_trans hlt (hbn x hx)⟩)] at this
          simp [Memory.read] at this
        · exact heq
        · have := h b
          rw [Memory.read_eq_none_of_lt (m := (a, v) :: m) (by
            simp only [List.mem_cons, forall_eq_or_imp]
            exact ⟨hgt, fun x hx => Nat.lt_trans hgt (ham x hx)⟩)] at this
          simp [Memory.read] at this
      subst hab
      have hvw : v = w := by have := h a; simpa [Memory.read] using this
      subst hvw
      congr 1
      refine ih hwm hwn fun c => ?_
      by_cases hc : c = a
      · subst hc; rw [Memory.read_eq_none_of_lt ham, Memory.read_eq_none_of_lt hbn]
      · have := h c; simpa [Memory.read, hc] using this

/-! ## The three images of the block -/

/-- A write of one cell is read back there, and every other cell of the three images reads as before. -/
theorem Block.setCell_cell (b : Block) {c d : Nat} (hc : c < Config.chips) (hd : d < Config.chips) (a : Nat) (v : Byte)
    (x : Nat) : (b.setCell c a v).cell d x = if d = c ∧ x = a then some v else b.cell d x := by
  have hc' : c = 0 ∨ c = 1 ∨ c = 2 := by simp only [Config.chips] at hc; omega
  have hd' : d = 0 ∨ d = 1 ∨ d = 2 := by simp only [Config.chips] at hd; omega
  rcases hc' with rfl | rfl | rfl <;> rcases hd' with rfl | rfl | rfl <;>
    simp [Block.setCell, Block.cell, Block.image, Memory.read_write]

/-- A write of one cell below 65536 keeps the canonical form of the images. -/
theorem Block.memoryWf_setCell {b : Block} (c a : Nat) (v : Byte) (ha : a < Config.imageSize)
    (h : b.memoryWf = true) : (b.setCell c a v).memoryWf = true := by
  simp only [Block.memoryWf, Bool.and_eq_true] at h ⊢
  obtain ⟨⟨h0, h1⟩, h2⟩ := h
  rcases c with _ | _ | c
  · exact ⟨⟨Memory.wf_write a v ha h0, h1⟩, h2⟩
  · exact ⟨⟨h0, Memory.wf_write a v ha h1⟩, h2⟩
  · exact ⟨⟨h0, h1⟩, Memory.wf_write a v ha h2⟩

@[simp] theorem Block.memoryWf_log (b : Block) (r : WriteTargetFailure) : (b.log r).memoryWf = b.memoryWf := rfl
@[simp] theorem Block.memoryWf_countPlacement (b : Block) : b.countPlacement.memoryWf = b.memoryWf := rfl
@[simp] theorem Block.memoryWf_reset : Block.reset.memoryWf = true := rfl

/-- The reset images are in canonical form. -/
theorem State.memoryWf_reset : State.reset.memoryWf = true := rfl

end Sys2Proof.Machine
end

