-- ==== Sys2Proof/Laws/Ops.lean ====
section
/-! SUPPORT. For each shared operation, once, everything it can do: the lanes, PLACE, EMIT, loops of placements, and the
answers to the host. -/

namespace Sys2Proof.Machine

/-! ## Bits -/

theorem slice_eq (v hi lo : Nat) : slice v hi lo = v / 2 ^ lo % 2 ^ (hi - lo + 1) := by
  simp [slice, Nat.shiftRight_eq_div_pow]

theorem and_255 (v : Nat) : v &&& 0xFF = v % 256 := Nat.and_two_pow_sub_one_eq_mod v 8

/-! ## Lanes (41_control_word_codec.md R70, R71) -/

/-- LANEBYTE on legal operands is lane c of the container. -/
theorem laneByte_ok {w c : Nat} (hw : w < 2 ^ 32) (hc : c < Config.chips) :
    laneByte w c = .ok (w / 2 ^ (8 * c) % 256) := by
  have h1 : ¬ Config.containerLimit ≤ w := by simp only [Config.containerLimit]; omega
  have h2 : ¬ Config.chips ≤ c := by omega
  simp only [laneByte, if_neg h1, if_neg h2, and_255, Nat.shiftRight_eq_div_pow]

/-- LANEBYTE of a value that is not a 32-bit number raises. -/
theorem laneByte_bad_word {w : Nat} (c : Nat) (hw : 2 ^ 32 ≤ w) : laneByte w c = .error (overlap .cw w) := by
  have : Config.containerLimit ≤ w := hw
  simp only [laneByte, if_pos this]

/-- LANEBYTE of a lane index of 3 or more raises. -/
theorem laneByte_bad_lane {w c : Nat} (hw : w < 2 ^ 32) (hc : Config.chips ≤ c) :
    laneByte w c = .error (overlap .lane c) := by
  have h1 : ¬ Config.containerLimit ≤ w := by simp only [Config.containerLimit]; omega
  simp only [laneByte, if_neg h1, if_pos hc]

theorem laneOfWord_eq (w c : Nat) : BitVec.ofNat 8 (w / 2 ^ (8 * c) % 256) = laneOfWord w c := by
  apply BitVec.eq_of_toNat_eq
  simp [laneOfWord]

/-! ## PLACE (20_memory.md R27, R28) -/

/-- PLACE with an operand out of range raises and changes nothing. -/
theorem place_bad (p : Params) {a c v : Nat} (s : Block) (h : ¬ (a < Config.imageSize ∧ c < Config.chips ∧ v < Config.laneLimit)) :
    place p a c v s = .error (.fieldOverlap (.operand .place) (.triple a c v)) := by
  simp only [place, if_neg h]

/-- PLACE that the medium accepts stores one byte. -/
theorem place_accepted {p : Params} {a c v : Nat} {s : Block} (ha : a < Config.imageSize) (hc : c < Config.chips)
    (hv : v < Config.laneLimit) (hok : p.placeOK c a v s.placed = true) :
    place p a c v s = .ok (s.setCell c a (BitVec.ofNat 8 v)).countPlacement := by
  simp [place, ha, hc, hv, hok]

/-- PLACE that the medium rejects appends a record to DIAG and leaves the cell. -/
theorem place_rejected {p : Params} {a c v : Nat} {s : Block} (ha : a < Config.imageSize) (hc : c < Config.chips)
    (hv : v < Config.laneLimit) (hok : p.placeOK c a v s.placed = false) :
    place p a c v s = .ok (s.log ⟨a, c⟩).countPlacement := by
  simp [place, ha, hc, hv, hok]

/-- Whatever PLACE answers is one of these two states. -/
theorem place_cases {p : Params} {a c v : Nat} {s t : Block} (h : place p a c v s = .ok t) :
    a < Config.imageSize ∧ c < Config.chips ∧ v < Config.laneLimit ∧
      ((p.placeOK c a v s.placed = true ∧ t = (s.setCell c a (BitVec.ofNat 8 v)).countPlacement) ∨
        (p.placeOK c a v s.placed = false ∧ t = (s.log ⟨a, c⟩).countPlacement)) := by
  by_cases hr : a < Config.imageSize ∧ c < Config.chips ∧ v < Config.laneLimit
  · obtain ⟨ha, hc, hv⟩ := hr
    refine ⟨ha, hc, hv, ?_⟩
    cases hok : p.placeOK c a v s.placed
    · rw [place_rejected ha hc hv hok] at h; exact .inr ⟨rfl, (Except.ok.inj h).symm⟩
    · rw [place_accepted ha hc hv hok] at h; exact .inl ⟨rfl, (Except.ok.inj h).symm⟩
  · rw [place_bad p s hr] at h; exact absurd h (by simp)

/-- A medium that accepts every placement accepts each one. -/
@[simp] theorem placeOK_of_acceptsAll {p : Params} (h : p.acceptsAll) (c a v k : Nat) : p.placeOK c a v k = true :=
  h c a v k

/-! ## What a sequence of placements leaves and keeps -/

/-- Everything a sequence of placements may change, said once: images only gain bytes and stay canonical, DIAG only grows, by
records of existing cells and by no more of them than placements made. Nothing beside the block can change. -/
structure Placements (s t : Block) : Prop where
  wf : s.memoryWf = true → t.memoryWf = true
  kept : ∀ c a, c < Config.chips → s.cell c a ≠ none → t.cell c a ≠ none
  placed : s.placed ≤ t.placed
  diag : ∃ d, t.diag = s.diag ++ d ∧ (∀ r ∈ d, r.inRange = true) ∧ d.length ≤ t.placed - s.placed

theorem Placements.refl (s : Block) : Placements s s :=
  ⟨id, fun _ _ _ h => h, le_rfl, [], by simp, by simp, by simp⟩

theorem Placements.trans {s t u : Block} (h : Placements s t) (k : Placements t u) : Placements s u := by
  obtain ⟨d, hd, hr, hl⟩ := h.diag
  obtain ⟨e, he, kr, kl⟩ := k.diag
  refine ⟨fun w => k.wf (h.wf w), fun c a hc n => k.kept c a hc (h.kept c a hc n), h.placed.trans k.placed,
    d ++ e, by simp [hd, he], ?_, ?_⟩
  · intro r hr'
    rcases List.mem_append.1 hr' with m | m
    · exact hr r m
    · exact kr r m
  · have := h.placed; have := k.placed; simp only [List.length_append]; omega

/-- PLACE is one placement. -/
theorem place_placements {p : Params} {a c v : Nat} {s t : Block} (h : place p a c v s = .ok t) : Placements s t := by
  obtain ⟨ha, hc, -, ⟨-, rfl⟩ | ⟨-, rfl⟩⟩ := place_cases h
  · refine ⟨fun w => ?_, fun d b hd n => ?_, by simp, [], by simp, by simp, by simp⟩
    · simpa using Block.memoryWf_setCell c a _ ha w
    · rw [Block.countPlacement_cell, Block.setCell_cell s hc hd]; split <;> simp_all
  · refine ⟨fun w => by simpa using w, fun d b _ n => by simpa using n, by simp,
      [⟨a, c⟩], by simp, ?_, by simp⟩
    simp [WriteTargetFailure.inRange, ha, hc]

/-- One lane of EMIT is one placement, or none where it raises. -/
theorem placeLane_placements (p : Params) (a w c : Nat) (s : Block) : Placements s (placeLane p a w c s).1 := by
  unfold placeLane
  split
  · exact .refl s
  · split
    · exact .refl s
    · rename_i h; exact place_placements h

/-! ## Loops -/

variable {α : Type}

@[simp] theorem forEach_nil (body : α → Block → Block × Ending) (s : Block) : forEach body [] s = (s, .completed) := rfl

theorem forEach_cons (body : α → Block → Block × Ending) (x : α) (xs : List α) (s : Block) :
    forEach body (x :: xs) s = andThen (body x s) (forEach body xs) := rfl

@[simp] theorem andThen_completed (s : Block) (k : Block → Block × Ending) : andThen (s, .completed) k = k s := rfl
@[simp] theorem andThen_raised (s : Block) (f : SpecFault) (k : Block → Block × Ending) :
    andThen (s, .raised f) k = (s, .raised f) := rfl
@[simp] theorem andThen_malformed (s : Block) (l : ListName) (k : Block → Block × Ending) :
    andThen (s, .malformed l) k = (s, .malformed l) := rfl

theorem andThen_assoc (r : Block × Ending) (k l : Block → Block × Ending) :
    andThen (andThen r k) l = andThen r (fun s => andThen (k s) l) := by
  obtain ⟨s, _ | _ | _⟩ := r <;> rfl

/-- A loop over two lists is the one loop and then the other. -/
theorem forEach_append (body : α → Block → Block × Ending) (xs ys : List α) (s : Block) :
    forEach body (xs ++ ys) s = andThen (forEach body xs s) (forEach body ys) := by
  induction xs generalizing s with
  | nil => rfl
  | cons x xs ih =>
    rw [List.cons_append, forEach_cons, forEach_cons, andThen_assoc]
    congr 1; funext t; exact ih t

/-- A reflexive and transitive relation that every body respects holds across sequencing. -/
theorem andThen_rel {R : Block → Block → Prop} (trans : ∀ {s t u}, R s t → R t u → R s u) {s : Block}
    {r : Block × Ending} {k : Block → Block × Ending} (h : R s r.1) (hk : ∀ t, R t (k t).1) : R s (andThen r k).1 := by
  obtain ⟨t, _ | _ | _⟩ := r
  · exact trans h (hk t)
  · exact h
  · exact h

/-- The induction over a loop, once: a reflexive and transitive relation that every body respects holds across the loop,
however it ends. -/
theorem forEach_rel {R : Block → Block → Prop} (refl : ∀ s, R s s) (trans : ∀ {s t u}, R s t → R t u → R s u)
    {body : α → Block → Block × Ending} {xs : List α} (hb : ∀ x ∈ xs, ∀ s, R s (body x s).1) (s : Block) :
    R s (forEach body xs s).1 := by
  induction xs generalizing s with
  | nil => exact refl s
  | cons x xs ih =>
    rw [forEach_cons]
    exact andThen_rel (R := R) (k := forEach body xs) trans (hb x (List.mem_cons_self ..) s)
      (fun t => ih (fun y hy => hb y (List.mem_cons_of_mem _ hy)) t)

/-- A loop whose bodies all complete, under a property they keep, completes and keeps it. -/
theorem forEach_completed {P : Block → Prop} {body : α → Block → Block × Ending} {xs : List α}
    (hb : ∀ x ∈ xs, ∀ s, P s → P (body x s).1 ∧ (body x s).2 = .completed) {s : Block} (hs : P s) :
    P (forEach body xs s).1 ∧ (forEach body xs s).2 = .completed := by
  induction xs generalizing s with
  | nil => exact ⟨hs, rfl⟩
  | cons x xs ih =>
    obtain ⟨hp, hc⟩ := hb x (List.mem_cons_self ..) s hs
    rw [forEach_cons]
    rcases hx : body x s with ⟨t, e⟩
    rw [hx] at hp hc
    simp only at hp hc
    subst hc
    exact ih (fun y hy => hb y (List.mem_cons_of_mem _ hy)) hp

/-- Loops of placements are placements. -/
theorem forEach_placements {body : α → Block → Block × Ending} {xs : List α}
    (hb : ∀ x ∈ xs, ∀ s, Placements s (body x s).1) (s : Block) : Placements s (forEach body xs s).1 :=
  forEach_rel Placements.refl Placements.trans hb s

/-! ## EMIT (42_table_expansion.md R80) -/

theorem emit_placements (p : Params) (a w : Nat) (s : Block) : Placements s (emit p a w s).1 :=
  forEach_placements (fun c _ t => placeLane_placements p a w c t) s

/-- One lane on legal operands completes: the byte is stored, or the medium rejects it and DIAG says so. -/
theorem placeLane_legal (p : Params) {a w c : Nat} (ha : a < Config.imageSize) (hw : w < 2 ^ 32) (hc : c < Config.chips) (s : Block) :
    placeLane p a w c s =
      (if p.placeOK c a (laneOfWord w c).toNat s.placed then (s.setCell c a (laneOfWord w c)).countPlacement
        else (s.log ⟨a, c⟩).countPlacement, .completed) := by
  have hv : w / 2 ^ (8 * c) % 256 < Config.laneLimit := by simp only [Config.laneLimit]; omega
  have ht : (laneOfWord w c).toNat = w / 2 ^ (8 * c) % 256 := by simp [laneOfWord]
  unfold placeLane
  rw [laneByte_ok hw hc, ht]
  cases hok : p.placeOK c a (w / 2 ^ (8 * c) % 256) s.placed
  · simp [place_rejected ha hc hv hok]
  · simp [place_accepted ha hc hv hok, laneOfWord_eq]

/-- EMIT on legal operands completes. -/
theorem emit_completed (p : Params) {a w : Nat} (ha : a < Config.imageSize) (hw : w < 2 ^ 32) (s : Block) :
    (emit p a w s).2 = .completed := by
  refine (forEach_completed (P := fun _ => True) (fun c hc t _ => ⟨trivial, ?_⟩) trivial).2
  have : c < Config.chips := by simp only [List.mem_cons, List.not_mem_nil, or_false] at hc; simp only [Config.chips]; omega
  rw [placeLane_legal p ha hw this]

/-- EMIT touches no cell of another address. -/
theorem emit_other (p : Params) {a w : Nat} (s : Block) {c b : Nat} (hc : c < Config.chips) (hb : b ≠ a) :
    (emit p a w s).1.cell c b = s.cell c b := by
  refine forEach_rel (R := fun s t => t.cell c b = s.cell c b) (fun _ => rfl) (fun h k => k.trans h) ?_ s
  intro d _ t
  unfold placeLane
  split
  · rfl
  · split
    · rfl
    · rename_i h
      obtain ⟨-, hd, -, ⟨-, rfl⟩ | ⟨-, rfl⟩⟩ := place_cases h
      · simp [Block.setCell_cell _ hd hc, hb]
      · simp

/-- EMIT on legal operands, where the medium accepts everything, stores the control word and no record. -/
theorem emit_accepted {p : Params} {a w : Nat} (ha : a < Config.imageSize) (hw : w < 2 ^ 32) (s : Block) (hp : p.acceptsAll) :
    (emit p a w s).1.holdsWord a w ∧ (emit p a w s).1.diag = s.diag ∧ (emit p a w s).1.placed = s.placed + 3 := by
  have h0 : (0 : Nat) < Config.chips := by decide
  have h1 : (1 : Nat) < Config.chips := by decide
  have h2 : (2 : Nat) < Config.chips := by decide
  have e : (emit p a w s).1 = ((((s.setCell 0 a (laneOfWord w 0)).countPlacement.setCell 1 a
      (laneOfWord w 1)).countPlacement).setCell 2 a (laneOfWord w 2)).countPlacement := by
    simp [emit, forEach_cons, placeLane_legal p ha hw h0, placeLane_legal p ha hw h1, placeLane_legal p ha hw h2, hp]
  refine ⟨fun c hc => ?_, by simp [e], by simp [e]⟩
  have hc' : c = 0 ∨ c = 1 ∨ c = 2 := by simp only [Config.chips] at hc; omega
  rcases hc' with rfl | rfl | rfl <;> simp [e, Block.setCell_cell, h0, h1, h2]

/-! ## Answers to the host -/

/-- A pure call always answers a next state that differs from its state in the result only (60_exceptions.md R118). -/
theorem answer_next (s : State) (r : Except SpecFault Result) : ∃ v, answer s r = .next { s with result := v } := by
  cases r with
  | error f => exact ⟨.fault f, rfl⟩
  | ok v => exact ⟨v, rfl⟩

/-- What a sequence of placements answers when it answers a next state: the block it left, and a result. -/
theorem settle_next {s t : State} {r : Block × Ending} (h : settle s r = .next t) :
    ∃ v, t = { s with toBlock := r.1, result := v } := by
  obtain ⟨u, _ | f | l⟩ := r
  · exact ⟨.done, (Host.Outcome.next.inj h).symm⟩
  · exact ⟨.fault f, (Host.Outcome.next.inj h).symm⟩
  · exact absurd h (by simp [settle])

/-- A completed sequence of placements answers `done`. -/
theorem settle_completed (s : State) {r : Block × Ending} (h : r.2 = .completed) :
    settle s r = .next ((s.withBlock r.1).returns .done) := by
  obtain ⟨u, e⟩ := r; subst h; rfl

/-- Everything a step can do, said once: with no call pending it answers its state; otherwise it takes the first call off the
list, and faults where that is no call frame, and else answers what the decoded instruction answers (log 1). -/
theorem step_cases (s : State) :
    (s.calls = [] ∧ step s = .next s) ∨
    (∃ f rest e, s.calls = f :: rest ∧ decode f = .error e ∧ step s = .fault (.badCall e)) ∨
    (∃ f rest i, s.calls = f :: rest ∧ decode f = .ok i ∧ step s = exec i { s with calls := rest }) := by
  cases hc : s.calls with
  | nil => exact .inl ⟨rfl, by simp only [step, stepWith, hc]; rw [← hc]⟩
  | cons f rest =>
    cases hd : decode f with
    | error e => exact .inr (.inl ⟨f, rest, e, rfl, hd, by simp only [step, stepWith, hc, hd]⟩)
    | ok i => exact .inr (.inr ⟨f, rest, i, rfl, hd, by simp only [step, stepWith, hc, hd]⟩)

end Sys2Proof.Machine
end

