-- ==== Sys2Proof/Laws/Codec.lean ====
section
/-! SUPPORT. What each function of the two codecs can do, said once: its value on operands in range, its fault otherwise. -/

namespace Sys2Proof.Machine

/-- ENCODE on operands in range is the sum of the shifted fields (40_address_codec.md R60). -/
theorem encodeAddress_ok {opc am pf step cond : Nat} (ho : opc ≤ 15) (hm : am ≤ 1) (hp : pf ≤ 1) (hs : step ≤ 15)
    (hc : cond ≤ 15) :
    encodeAddress opc am pf step cond = .ok (opc * 4096 + am * 2048 + pf * 256 + step * 16 + cond) := by
  simp only [encodeAddress, Nat.shiftLeft_eq]
  rw [if_neg (by omega), if_neg (by omega), if_neg (by omega), if_neg (by omega), if_neg (by omega)]

/-- ENCODE answers an address only on operands in range, and the address is their sum. -/
theorem encodeAddress_eq_ok {opc am pf step cond a : Nat} (h : encodeAddress opc am pf step cond = .ok a) :
    (opc ≤ 15 ∧ am ≤ 1 ∧ pf ≤ 1 ∧ step ≤ 15 ∧ cond ≤ 15) ∧
      a = opc * 4096 + am * 2048 + pf * 256 + step * 16 + cond := by
  by_cases hr : opc ≤ 15 ∧ am ≤ 1 ∧ pf ≤ 1 ∧ step ≤ 15 ∧ cond ≤ 15
  · rw [encodeAddress_ok hr.1 hr.2.1 hr.2.2.1 hr.2.2.2.1 hr.2.2.2.2] at h
    exact ⟨hr, (Except.ok.inj h).symm⟩
  · simp only [encodeAddress] at h
    repeat' split at h
    all_goals first | cases h; done | omega

/-- An address ENCODE answers is a 16-bit address. -/
theorem encodeAddress_lt {opc am pf step cond a : Nat} (h : encodeAddress opc am pf step cond = .ok a) :
    a < Config.imageSize := by
  have := encodeAddress_eq_ok h
  simp only [Config.imageSize]
  omega

/-- DECODE of a 16-bit address (R61). -/
theorem decodeAddress_ok {a : Nat} (h : a ≤ 65535) : decodeAddress a = .ok (generalFields a) := by
  rw [decodeAddress, if_neg (by omega)]

/-- The fields of a 16-bit address by division. -/
theorem generalFields_eq {a : Nat} (h : a ≤ 65535) :
    generalFields a = ⟨a / 4096, a / 2048 % 2, a / 512 % 4, a / 256 % 2, a / 16 % 16, a % 16⟩ := by
  simp only [generalFields, slice_eq, GeneralFields.mk.injEq]
  omega

/-- ENCODEJ on legal operands is the sum (R62). -/
theorem encodeJump_ok {taddr sel cond : Nat} (h : taddr ≤ 65535) (h1 : taddr / 256 % 8 = 0) (h2 : taddr % 16 = 0)
    (hs : sel ≤ 7) (hc : cond ≤ 15) : encodeJump taddr sel cond = .ok (taddr + sel * 256 + cond) := by
  simp only [encodeJump, slice_eq, Nat.shiftLeft_eq, Config.selShift]
  rw [if_neg (by omega), if_neg (by simp only [ne_eq, not_or, not_not]; omega), if_neg (by omega), if_neg (by omega)]

/-- ENCODEJ answers an address only on legal operands, and the address is their sum. -/
theorem encodeJump_eq_ok {taddr sel cond a : Nat} (h : encodeJump taddr sel cond = .ok a) :
    (taddr ≤ 65535 ∧ taddr / 256 % 8 = 0 ∧ taddr % 16 = 0 ∧ sel ≤ 7 ∧ cond ≤ 15) ∧ a = taddr + sel * 256 + cond := by
  by_cases hr : taddr ≤ 65535 ∧ taddr / 256 % 8 = 0 ∧ taddr % 16 = 0 ∧ sel ≤ 7 ∧ cond ≤ 15
  · rw [encodeJump_ok hr.1 hr.2.1 hr.2.2.1 hr.2.2.2.1 hr.2.2.2.2] at h
    exact ⟨hr, (Except.ok.inj h).symm⟩
  · simp only [encodeJump, slice_eq] at h
    repeat' split at h
    all_goals first | cases h; done | (exfalso; simp only [ne_eq, not_or, not_not] at *; omega)

/-- ENCODEJ rejects a template-step address that is too wide or has a selector or nibble bit set. -/
theorem encodeJump_bad_taddr {taddr : Nat} (sel cond : Nat)
    (h : 65535 < taddr ∨ taddr / 256 % 8 ≠ 0 ∨ taddr % 16 ≠ 0) : encodeJump taddr sel cond = .error (overlap .taddr taddr) := by
  simp only [encodeJump, slice_eq]
  by_cases h1 : 65535 < taddr
  · rw [if_pos h1]
  · rw [if_neg h1, if_pos (by simp only [ne_eq] at *; omega)]

/-- DECODEJ of a 16-bit address (R63). -/
theorem decodeJump_ok {a : Nat} (h : a ≤ 65535) : decodeJump a = .ok (jumpFields a) := by
  rw [decodeJump, if_neg (by omega)]

/-- The mask 0xF8F0 of a 16-bit address keeps bits 15:11 and 7:4. -/
theorem and_F8F0 {a : Nat} (h : a < 65536) : a &&& 0xF8F0 = a / 2048 * 2048 + a / 16 % 16 * 16 := by
  have e : a / 2048 * 2048 + a / 16 % 16 * 16 = 2 ^ 11 * (a / 2 ^ 11) ||| 2 ^ 4 * (a / 2 ^ 4 % 2 ^ 4) := by
    rw [← Nat.two_pow_add_eq_or_of_lt (i := 11) (b := 2 ^ 4 * (a / 2 ^ 4 % 2 ^ 4)) (by omega)]
    omega
  rw [e]
  refine Nat.eq_of_testBit_eq fun i => ?_
  by_cases hi : i < 16
  · simp only [Nat.testBit_and, Nat.testBit_or, Nat.testBit_two_pow_mul, Nat.testBit_div_two_pow, Nat.testBit_mod_two_pow]
    interval_cases i <;> simp [Nat.testBit]
  · have hp : 2 ^ 16 ≤ 2 ^ i := Nat.pow_le_pow_right (by omega) (by omega)
    have ha : a.testBit i = false := Nat.testBit_lt_two_pow (by omega)
    simp only [Nat.testBit_and, Nat.testBit_or, Nat.testBit_two_pow_mul, Nat.testBit_div_two_pow, Nat.testBit_mod_two_pow]
    have h1 : i - 11 + 11 = i := by omega
    have h2 : ¬ (i - 4 < 4) := by omega
    simp [ha, h1, h2]

/-- LANEJOIN on bytes (41_control_word_codec.md R71). -/
theorem laneJoin_ok {b0 b1 b2 : Nat} (h0 : b0 < 256) (h1 : b1 < 256) (h2 : b2 < 256) :
    laneJoin b0 b1 b2 = .ok (b0 + 256 * b1 + 65536 * b2) := by
  rw [laneJoin, if_pos ⟨h0, h1, h2⟩, Nat.shiftLeft_eq, Nat.shiftLeft_eq, Nat.or_comm b0, Nat.mul_comm b1,
    ← Nat.two_pow_add_eq_or_of_lt (i := 8) (b := b0) (by omega), Nat.or_comm _ (b2 * 2 ^ 16), Nat.mul_comm b2,
    ← Nat.two_pow_add_eq_or_of_lt (i := 16) (b := 2 ^ 8 * b1 + b0) (by omega)]
  congr 1
  omega

/-- LANEJOIN of anything else is the FieldOverlap of the triple (R71). -/
theorem laneJoin_bad {b0 b1 b2 : Nat} (h : 256 ≤ b0 ∨ 256 ≤ b1 ∨ 256 ≤ b2) :
    laneJoin b0 b1 b2 = .error (.fieldOverlap (.operand .lanebyte) (.triple b0 b1 b2)) := by
  rw [laneJoin, if_neg]
  simp only [Config.laneLimit]
  omega

/-- CWUNPACK of a container value (R74). -/
theorem unpackWord_ok {w : Nat} (L : Layout) (h : w < 2 ^ 32) : unpackWord L w = .ok (wordSignals L w) := by
  rw [unpackWord, if_neg (by simp only [Config.containerLimit]; omega)]

/-- Every component of CWUNPACK is the field's bits. -/
theorem wordSignals_get (L : Layout) (w : Nat) (f : CwField) : (wordSignals L w).get f = w / 2 ^ L.lo f % 2 ^ f.width := by
  have hw : L.hi f - L.lo f + 1 = f.width := by
    have : 1 ≤ f.width := by cases f <;> decide
    simp only [Layout.hi]
    omega
  rw [← hw, ← slice_eq]
  cases f <;> rfl

end Sys2Proof.Machine
end

