-- ==== Sys2Proof/Laws/Passes.lean ====
section
/-! SUPPORT. Every pass, and every call that places anything, is a sequence of placements (Laws/Ops.lean says what that
leaves and keeps); and the rule-list form of PlaceOK loses no medium. -/

namespace Sys2Proof.Machine

theorem emitEncoded_placements (p : Params) (opc am pf step cw n : Nat) (s : Block) :
    Placements s (emitEncoded p opc am pf step cw n s).1 := by
  unfold emitEncoded
  split
  · exact .refl s
  · exact emit_placements _ _ _ s

theorem expandWild_placements (p : Params) (opc am pf step cw : Nat) (s : Block) :
    Placements s (expandWild p opc am pf step cw s).1 :=
  forEach_placements (fun n _ t => emitEncoded_placements p opc am pf step cw n t) s

theorem expandEntry_placements (p : Params) (e : Entry) (s : Block) : Placements s (expandEntry p e s).1 := by
  unfold expandEntry
  split
  · exact expandWild_placements p ..
  · exact emitEncoded_placements p ..

theorem expandElement_placements (p : Params) (el : RawElement) (s : Block) : Placements s (expandElement p el s).1 := by
  unfold expandElement
  split
  · exact .refl s
  · exact expandEntry_placements p _ s

theorem expandTable_placements (p : Params) (s : Block) : Placements s (expandTable p s).1 :=
  forEach_placements (fun el _ t => expandElement_placements p el t) s

theorem emitTemplateElement_placements (p : Params) (i n : Nat) (el : RawElement) (s : Block) :
    Placements s (emitTemplateElement p i n el s).1 := by
  unfold emitTemplateElement
  split
  · exact .refl s
  · unfold emitTemplate
    split
    · exact .refl s
    · split
      · exact .refl s
      · exact emit_placements _ _ _ s

theorem jseq_placements (p : Params) (s : Block) : Placements s (jseq p s).1 :=
  forEach_placements (fun i _ t => forEach_placements (fun n _ u =>
    forEach_placements (fun el _ v => emitTemplateElement_placements p i n el v) u) t) s

theorem emitDecision_placements (p : Params) (i j : Nat) (s : Block) : Placements s (emitDecision p i j s).1 := by
  unfold emitDecision
  split
  · exact .refl s
  · exact emit_placements _ _ _ s

theorem jdec_placements (p : Params) (s : Block) : Placements s (jdec p s).1 :=
  forEach_placements (fun i _ t => forEach_placements (fun j _ u => emitDecision_placements p i j u) t) s

theorem passes_placements (p : Params) (s : Block) : Placements s (passes p s).1 := by
  unfold passes
  refine andThen_rel (R := Placements) Placements.trans ?_ (jdec_placements p)
  exact andThen_rel (R := Placements) Placements.trans (expandTable_placements p s) (jseq_placements p)

/-! ## Entries and their raw form -/

@[simp] theorem parseEntry_raw (e : Entry) : parseEntry e.raw = some e := by
  obtain ⟨opc, am, pf, step, c, cw⟩ := e
  cases c <;> rfl

@[simp] theorem parseTemplate_raw (t : TemplateEntry) : parseTemplate t.raw = some t := rfl

theorem entries_map_raw (es : List Entry) : (es.map Entry.raw).filterMap parseEntry = es := by
  induction es with
  | nil => rfl
  | cons e es ih => simp [ih]

theorem templates_map_raw (ts : List TemplateEntry) : (ts.map TemplateEntry.raw).filterMap parseTemplate = ts := by
  induction ts with
  | nil => rfl
  | cons t ts ih => simp [ih]

/-! ## The rule list of PlaceOK (log 9) -/

/-- Every medium is a rule list on every run of at most N placements: for any function PlaceOK there is a rule list that
answers as it does on every cell, every byte and every count below N. -/
theorem placeOK_any_medium (f : Nat → Nat → Nat → Nat → Bool) (N : Nat) (p : Params) :
    ∃ rs, ∀ c a v k, c < Config.chips → a < Config.imageSize → v < Config.laneLimit → k < N →
      Params.placeOK { p with rejects := rs } c a v k = f c a v k := by
  refine ⟨(List.range Config.chips).flatMap fun c => (List.range Config.imageSize).flatMap fun a =>
    (List.range Config.laneLimit).flatMap fun v => (List.range N).filterMap fun k =>
      if f c a v k then none else some ⟨some c, some a, some v, some k⟩, ?_⟩
  intro c a v k hc ha hv hk
  have key : ∀ r : RejectRule, r.hits c a v k = true → r = ⟨some c, some a, some v, some k⟩ ∨
      r.chip = none ∨ r.addr = none ∨ r.value = none ∨ r.count = none := by
    rintro ⟨_ | _, _ | _, _ | _, _ | _⟩ h <;> simp_all [RejectRule.hits, componentMatches]
  cases hf : f c a v k with
  | true =>
    simp only [Params.placeOK, Bool.not_eq_true', List.any_eq_false]
    intro r hr hh
    simp only [List.mem_flatMap, List.mem_range, List.mem_filterMap, Option.ite_none_left_eq_some, Option.some.injEq] at hr
    obtain ⟨c', -, a', -, v', -, k', -, hn, rfl⟩ := hr
    rcases key _ hh with h | h | h | h | h
    · simp only [RejectRule.mk.injEq, Option.some.injEq] at h
      obtain ⟨rfl, rfl, rfl, rfl⟩ := h
      exact hn hf
    all_goals simp at h
  | false =>
    simp only [Params.placeOK, Bool.not_eq_false', List.any_eq_true]
    refine ⟨⟨some c, some a, some v, some k⟩, ?_, by simp [RejectRule.hits, componentMatches]⟩
    simp only [List.mem_flatMap, List.mem_range, List.mem_filterMap]
    exact ⟨c, hc, a, ha, v, hv, k, hk, by simp [hf]⟩

end Sys2Proof.Machine
end

