-- ==== Sys2Proof/Laws/PerInstr.lean ====
section
/-! SUPPORT. Statements about every instruction, one lemma per constructor. -/

namespace Sys2Proof.Laws.Rebuild

/-- Row number and operands name the instruction: nothing of it is dropped (log 2). -/
def Statement (i : Instr) : Prop := rebuild i.code i.operands = some i

theorem encode (opc am pf step cond : Nat) : Statement (.encode opc am pf step cond) := rfl
theorem decode (a : Nat) : Statement (.decode a) := rfl
theorem encodej (taddr sel cond : Nat) : Statement (.encodej taddr sel cond) := rfl
theorem decodej (a : Nat) : Statement (.decodej a) := rfl
theorem lanebyte (w c : Nat) : Statement (.lanebyte w c) := rfl
theorem lanejoin (b0 b1 b2 : Nat) : Statement (.lanejoin b0 b1 b2) := rfl
theorem cwpack (r : CwRecord) : Statement (.cwpack r) := rfl
theorem cwunpack (w : Nat) : Statement (.cwunpack w) := rfl
theorem place (a c v : Nat) : Statement (.place a c v) := rfl
theorem imgread (c a : Nat) : Statement (.imgread c a) := rfl
theorem emit (a w : Nat) : Statement (.emit a w) := rfl
theorem expandFixed (opc am pf step n cw : Nat) : Statement (.expandFixed opc am pf step n cw) := rfl
theorem expandWild (opc am pf step cw : Nat) : Statement (.expandWild opc am pf step cw) := rfl
theorem expandTable : Statement (.expandTable) := rfl
theorem jseq : Statement (.jseq) := rfl
theorem jdec : Statement (.jdec) := rfl
theorem validate : Statement (.validate) := rfl
theorem generate : Statement (.generate) := rfl
theorem lookup (a : Nat) : Statement (.lookup a) := rfl
theorem formatMaG (a : Nat) : Statement (.formatMaG a) := rfl
theorem formatMaJ (a : Nat) : Statement (.formatMaJ a) := rfl
theorem formatCw (w : Nat) : Statement (.formatCw w) := rfl
theorem magOpc (a : Nat) : Statement (.magOpc a) := rfl
theorem magAm (a : Nat) : Statement (.magAm a) := rfl
theorem magRsv (a : Nat) : Statement (.magRsv a) := rfl
theorem magPf (a : Nat) : Statement (.magPf a) := rfl
theorem magStep (a : Nat) : Statement (.magStep a) := rfl
theorem magCond (a : Nat) : Statement (.magCond a) := rfl
theorem majSel (a : Nat) : Statement (.majSel a) := rfl
theorem cond0 (a : Nat) : Statement (.cond0 a) := rfl
theorem cond1 (a : Nat) : Statement (.cond1 a) := rfl
theorem cond2 (a : Nat) : Statement (.cond2 a) := rfl
theorem cond3 (a : Nat) : Statement (.cond3 a) := rfl
theorem sel0 (a : Nat) : Statement (.sel0 a) := rfl
theorem sel1 (a : Nat) : Statement (.sel1 a) := rfl
theorem sel2 (a : Nat) : Statement (.sel2 a) := rfl
theorem sel3 (a : Nat) : Statement (.sel3 a) := rfl
theorem sel4 (a : Nat) : Statement (.sel4 a) := rfl
theorem sel5 (a : Nat) : Statement (.sel5 a) := rfl
theorem sel6 (a : Nat) : Statement (.sel6 a) := rfl
theorem sel7 (a : Nat) : Statement (.sel7 a) := rfl
theorem cwNextStep (w : Nat) : Statement (.cwNextStep w) := rfl
theorem cwLdAddrHi (w : Nat) : Statement (.cwLdAddrHi w) := rfl
theorem cwLdAddrLo (w : Nat) : Statement (.cwLdAddrLo w) := rfl
theorem cwMemOe (w : Nat) : Statement (.cwMemOe w) := rfl
theorem cwMemWe (w : Nat) : Statement (.cwMemWe w) := rfl
theorem cwLdIr (w : Nat) : Statement (.cwLdIr w) := rfl
theorem cwLdA (w : Nat) : Statement (.cwLdA w) := rfl
theorem cwLdB (w : Nat) : Statement (.cwLdB w) := rfl
theorem cwLdRes (w : Nat) : Statement (.cwLdRes w) := rfl
theorem cwResOe (w : Nat) : Statement (.cwResOe w) := rfl
theorem cwAluOp (w : Nat) : Statement (.cwAluOp w) := rfl
theorem cwLdPcHi (w : Nat) : Statement (.cwLdPcHi w) := rfl
theorem cwLdPcLo (w : Nat) : Statement (.cwLdPcLo w) := rfl
theorem cwPcHiOe (w : Nat) : Statement (.cwPcHiOe w) := rfl
theorem cwPcLoOe (w : Nat) : Statement (.cwPcLoOe w) := rfl
theorem cwIncPc (w : Nat) : Statement (.cwIncPc w) := rfl
theorem cwLdIo (w : Nat) : Statement (.cwLdIo w) := rfl
theorem cwIoOe (w : Nat) : Statement (.cwIoOe w) := rfl
theorem cwIoWe (w : Nat) : Statement (.cwIoWe w) := rfl
theorem aluNop (w : Nat) : Statement (.aluNop w) := rfl
theorem aluShift (w : Nat) : Statement (.aluShift w) := rfl
theorem aluAdd (w : Nat) : Statement (.aluAdd w) := rfl
theorem aluSub (w : Nat) : Statement (.aluSub w) := rfl
theorem aluInv (w : Nat) : Statement (.aluInv w) := rfl
theorem aluXor (w : Nat) : Statement (.aluXor w) := rfl
theorem aluOr (w : Nat) : Statement (.aluOr w) := rfl
theorem aluAnd (w : Nat) : Statement (.aluAnd w) := rfl
theorem jdecI1J0 : Statement (.jdecI1J0) := rfl
theorem jdecI1J1 : Statement (.jdecI1J1) := rfl
theorem jdecI1J2 : Statement (.jdecI1J2) := rfl
theorem jdecI1J3 : Statement (.jdecI1J3) := rfl
theorem jdecI1J4 : Statement (.jdecI1J4) := rfl
theorem jdecI1J5 : Statement (.jdecI1J5) := rfl
theorem jdecI1J6 : Statement (.jdecI1J6) := rfl
theorem jdecI1J7 : Statement (.jdecI1J7) := rfl
theorem jdecI2J0 : Statement (.jdecI2J0) := rfl
theorem jdecI2J1 : Statement (.jdecI2J1) := rfl
theorem jdecI2J2 : Statement (.jdecI2J2) := rfl
theorem jdecI2J3 : Statement (.jdecI2J3) := rfl
theorem jdecI2J4 : Statement (.jdecI2J4) := rfl
theorem jdecI2J5 : Statement (.jdecI2J5) := rfl
theorem jdecI2J6 : Statement (.jdecI2J6) := rfl
theorem jdecI2J7 : Statement (.jdecI2J7) := rfl
theorem jdecI3J0 : Statement (.jdecI3J0) := rfl
theorem jdecI3J1 : Statement (.jdecI3J1) := rfl
theorem jdecI3J2 : Statement (.jdecI3J2) := rfl
theorem jdecI3J3 : Statement (.jdecI3J3) := rfl
theorem jdecI3J4 : Statement (.jdecI3J4) := rfl
theorem jdecI3J5 : Statement (.jdecI3J5) := rfl
theorem jdecI3J6 : Statement (.jdecI3J6) := rfl
theorem jdecI3J7 : Statement (.jdecI3J7) := rfl
theorem jdecI4J0 : Statement (.jdecI4J0) := rfl
theorem jdecI4J1 : Statement (.jdecI4J1) := rfl
theorem jdecI4J2 : Statement (.jdecI4J2) := rfl
theorem jdecI4J3 : Statement (.jdecI4J3) := rfl
theorem jdecI4J4 : Statement (.jdecI4J4) := rfl
theorem jdecI4J5 : Statement (.jdecI4J5) := rfl
theorem jdecI4J6 : Statement (.jdecI4J6) := rfl
theorem jdecI4J7 : Statement (.jdecI4J7) := rfl
theorem jdecI5J0 : Statement (.jdecI5J0) := rfl
theorem jdecI5J1 : Statement (.jdecI5J1) := rfl
theorem jdecI5J2 : Statement (.jdecI5J2) := rfl
theorem jdecI5J3 : Statement (.jdecI5J3) := rfl
theorem jdecI5J4 : Statement (.jdecI5J4) := rfl
theorem jdecI5J5 : Statement (.jdecI5J5) := rfl
theorem jdecI5J6 : Statement (.jdecI5J6) := rfl
theorem jdecI5J7 : Statement (.jdecI5J7) := rfl
theorem jdecI6J0 : Statement (.jdecI6J0) := rfl
theorem jdecI6J1 : Statement (.jdecI6J1) := rfl
theorem jdecI6J2 : Statement (.jdecI6J2) := rfl
theorem jdecI6J3 : Statement (.jdecI6J3) := rfl
theorem jdecI6J4 : Statement (.jdecI6J4) := rfl
theorem jdecI6J5 : Statement (.jdecI6J5) := rfl
theorem jdecI6J6 : Statement (.jdecI6J6) := rfl
theorem jdecI6J7 : Statement (.jdecI6J7) := rfl
theorem jdecI7J0 : Statement (.jdecI7J0) := rfl
theorem jdecI7J1 : Statement (.jdecI7J1) := rfl
theorem jdecI7J2 : Statement (.jdecI7J2) := rfl
theorem jdecI7J3 : Statement (.jdecI7J3) := rfl
theorem jdecI7J4 : Statement (.jdecI7J4) := rfl
theorem jdecI7J5 : Statement (.jdecI7J5) := rfl
theorem jdecI7J6 : Statement (.jdecI7J6) := rfl
theorem jdecI7J7 : Statement (.jdecI7J7) := rfl

end Sys2Proof.Laws.Rebuild
end

