-- ==== Sys2Proof/Tests/Slice0.lean ====
section
/-! SUPPORT. The model's own tests: the WellFormed smoke, decoding of every constructor, one-step tests whose expected values
are the worked examples and vectors of spec/, and for every statement with hypotheses a concrete state and operands that
meet them. -/

namespace Sys2Proof.Tests

open Sys2Proof.Machine

/-! ## Helpers -/

/-- The next state of an outcome. -/
def nextOf : Host.Outcome State Fault Refusal → Option State
  | .next s => some s
  | .fault _ => none
  | .refused _ => none

/-- The fault an outcome stops with. -/
def faultOf : Host.Outcome State Fault Refusal → Option Fault
  | .next _ => none
  | .fault f => some f
  | .refused _ => none

/-- The refusal an outcome stops with. -/
def refusalOf : Host.Outcome State Fault Refusal → Option Refusal
  | .next _ => none
  | .fault _ => none
  | .refused r => some r

/-- What a call returns from a state. -/
def resultFrom (s : State) (i : Instr) : Option Result := (nextOf (exec i s)).map (·.result)

/-- What a call returns right after reset. -/
def resultOf (i : Instr) : Option Result := resultFrom State.reset i

/-- A cell after a call: `none` if the call stops, `some none` if the cell is unwritten. -/
def cellAfter (s : State) (i : Instr) (c a : Nat) : Option (Option Byte) := (nextOf (exec i s)).map (·.cell c a)

/-- The three cells of an address after a call. -/
def lanesAfter (s : State) (i : Instr) (a : Nat) : Option (List (Option Byte)) :=
  (nextOf (exec i s)).map fun t => [t.cell 0 a, t.cell 1 a, t.cell 2 a]

/-- The example parameters of 95_test_vectors.md section 5, with lists of entries. -/
def exampleParams (es : List Entry) (ts : List TemplateEntry) : Params :=
  { resetParams with
    table := es.map Entry.raw, template := ts.map TemplateEntry.raw, jumpBase := 0xE000, cwContinue := 0x080046,
    cwAbort := 0x080000 }

/-- The reset state with example parameters. -/
def example_ (es : List Entry) (ts : List TemplateEntry) : State := { State.reset with params := exampleParams es ts }

/-- The reset state with no entries and JUMP_BASE 0xE000. -/
def bare : State := example_ [] []

/-- A wildcard entry and a later override of one nibble (42_table_expansion.md R83). -/
def overrideTable : List Entry := [⟨3, 0, 0, 2, .any, 0x088216⟩, ⟨3, 0, 0, 2, .only 2, 0x0C8216⟩]

/-- A template entry, and one at the decision step (43_jump_expander.md R90, R92). -/
def stepTemplate : List TemplateEntry := [⟨0xE020, 0x200000⟩, ⟨0xE030, 0x555555⟩]

/-- A finished run whose image holds one word (95_test_vectors.md section 4.3 step 3). -/
def finishedExample : State :=
  { bare with finished := true, img0 := [(0x3020, 0x16)], img1 := [(0x3020, 0x82)], img2 := [(0x3020, 0x08)] }

/-- The record of the example of 41_control_word_codec.md R73. -/
def exampleRecord : CwRecord := CwRecord.build fun
  | .nextStep => 1
  | .ldAddrLo => 1
  | .memOe => 1
  | .ldIr => 1
  | .aluOp => 2
  | .incPc => 1
  | _ => 0

/-- The record with every component at its maximum (R73). -/
def fullRecord : CwRecord := CwRecord.build fun f => 2 ^ f.width - 1

/-! ## WellFormed -/

/-- The one check of WellFormed: an operand above its container is refused, at every operand of ENCODE. -/
theorem test_wellformed_refuses_wide_operands :
    [Instr.encode (2 ^ 64) 0 0 0 0, .encode 0 (2 ^ 64) 0 0 0, .encode 0 0 (2 ^ 64) 0 0, .encode 0 0 0 (2 ^ 64) 0,
     .encode 0 0 0 0 (2 ^ 64)].all (fun i => !i.wellFormed) = true := by decide

/-- A component of CWPACK's record above its container is refused. -/
theorem test_wellformed_refuses_wide_component :
    (Instr.cwpack { exampleRecord with ioWe := 2 ^ 64 }).wellFormed = false := by decide

/-- An operand outside its field but inside its container is well formed: ENCODE itself rejects it (R60). -/
theorem test_wellformed_leaves_field_ranges_to_the_operation :
    (Instr.encode 16 2 2 16 16).wellFormed = true ∧ (Instr.lanebyte (2 ^ 32) 3).wellFormed = true := by decide

/-! ## Decoding -/

/-- Bytes from numbers. -/
def bytes (bs : List Nat) : Frame := bs.map (BitVec.ofNat 8)

/-- A frame decodes to an instruction. -/
def reads (f : List Nat) (i : Instr) : Bool := (decode (bytes f)).toOption == some i

/-- The call frames of the operations, written out byte by byte (log 2): row number, then operands of eight bytes. -/
theorem test_decode_codec_calls :
    reads [0, 0, 0, 0, 10, 0, 0, 0, 0, 0, 0, 0, 1, 0, 0, 0, 0, 0, 0, 0, 0, 0, 0, 0, 0, 0, 0, 0, 5, 0, 0, 0, 0, 0, 0,
      0, 9, 0, 0, 0, 0, 0, 0, 0] (.encode 10 1 0 5 9) ∧
    reads [1, 0, 0, 0, 89, 168, 0, 0, 0, 0, 0, 0] (.decode 0xa859) ∧
    reads [2, 0, 0, 0, 32, 224, 0, 0, 0, 0, 0, 0, 5, 0, 0, 0, 0, 0, 0, 0, 4, 0, 0, 0, 0, 0, 0, 0] (.encodej 0xe020 5
      4) ∧
    reads [3, 0, 0, 0, 36, 229, 0, 0, 0, 0, 0, 0] (.decodej 0xe524) ∧
    reads [4, 0, 0, 0, 22, 130, 8, 0, 0, 0, 0, 0, 1, 0, 0, 0, 0, 0, 0, 0] (.lanebyte 0x88216 1) ∧
    reads [5, 0, 0, 0, 22, 0, 0, 0, 0, 0, 0, 0, 130, 0, 0, 0, 0, 0, 0, 0, 8, 0, 0, 0, 0, 0, 0, 0] (.lanejoin 22 130
      8) ∧
    reads [7, 0, 0, 0, 22, 130, 8, 0, 0, 0, 0, 0] (.cwunpack 0x88216) := by decide

/-- The call frames of the store operations, written out byte by byte (log 2). -/
theorem test_decode_store_calls :
    reads [8, 0, 0, 0, 34, 48, 0, 0, 0, 0, 0, 0, 1, 0, 0, 0, 0, 0, 0, 0, 90, 0, 0, 0, 0, 0, 0, 0] (.place 0x3022 1
      90) ∧
    reads [9, 0, 0, 0, 2, 0, 0, 0, 0, 0, 0, 0, 34, 48, 0, 0, 0, 0, 0, 0] (.imgread 2 0x3022) ∧
    reads [10, 0, 0, 0, 32, 48, 0, 0, 0, 0, 0, 0, 22, 130, 8, 0, 0, 0, 0, 0] (.emit 0x3020 0x88216) ∧
    reads [11, 0, 0, 0, 3, 0, 0, 0, 0, 0, 0, 0, 0, 0, 0, 0, 0, 0, 0, 0, 0, 0, 0, 0, 0, 0, 0, 0, 2, 0, 0, 0, 0, 0, 0,
      0, 2, 0, 0, 0, 0, 0, 0, 0, 22, 130, 12, 0, 0, 0, 0, 0] (.expandFixed 3 0 0 2 2 0xc8216) ∧
    reads [12, 0, 0, 0, 3, 0, 0, 0, 0, 0, 0, 0, 0, 0, 0, 0, 0, 0, 0, 0, 0, 0, 0, 0, 0, 0, 0, 0, 2, 0, 0, 0, 0, 0, 0,
      0, 22, 130, 8, 0, 0, 0, 0, 0] (.expandWild 3 0 0 2 0x88216) := by decide

/-- The call frames of the pass operations, written out byte by byte (log 2). -/
theorem test_decode_pass_calls :
    reads [13, 0, 0, 0] (.expandTable) ∧
    reads [14, 0, 0, 0] (.jseq) ∧
    reads [15, 0, 0, 0] (.jdec) ∧
    reads [16, 0, 0, 0] (.validate) ∧
    reads [17, 0, 0, 0] (.generate) ∧
    reads [18, 0, 0, 0, 32, 48, 0, 0, 0, 0, 0, 0] (.lookup 0x3020) := by decide

/-- The frame of CWPACK: nineteen operands in row order. -/
theorem test_decode_cwpack_call :
    reads ([6, 0, 0, 0] ++ ([1, 0, 1, 1, 0, 1, 0, 0, 0, 0, 2, 0, 0, 0, 0, 1, 0, 0, 0].flatMap fun v =>
      [v, 0, 0, 0, 0, 0, 0, 0])) (.cwpack exampleRecord) := by decide

/-- The call frames of the readings of an address, of the address 0x3022. -/
theorem test_decode_address_readings :
    [(19, Instr.formatMaG), (20, Instr.formatMaJ), (22, Instr.magOpc), (23, Instr.magAm), (24, Instr.magRsv), (25,
     Instr.magPf), (26, Instr.magStep), (27, Instr.magCond), (28, Instr.majSel), (29, Instr.cond0), (30,
     Instr.cond1), (31, Instr.cond2), (32, Instr.cond3), (33, Instr.sel0), (34, Instr.sel1), (35, Instr.sel2), (36,
     Instr.sel3), (37, Instr.sel4), (38, Instr.sel5), (39, Instr.sel6), (40, Instr.sel7)].all
      (fun p => reads [p.1, 0, 0, 0, 0x22, 0x30, 0, 0, 0, 0, 0, 0] (p.2 0x3022)) = true := by decide

/-- The call frames of the readings of a control word, of the word 0x088216. -/
theorem test_decode_word_readings :
    [(21, Instr.formatCw), (41, Instr.cwNextStep), (42, Instr.cwLdAddrHi), (43, Instr.cwLdAddrLo), (44,
     Instr.cwMemOe), (45, Instr.cwMemWe), (46, Instr.cwLdIr), (47, Instr.cwLdA), (48, Instr.cwLdB), (49,
     Instr.cwLdRes), (50, Instr.cwResOe), (51, Instr.cwAluOp), (52, Instr.cwLdPcHi), (53, Instr.cwLdPcLo), (54,
     Instr.cwPcHiOe), (55, Instr.cwPcLoOe), (56, Instr.cwIncPc), (57, Instr.cwLdIo), (58, Instr.cwIoOe), (59,
     Instr.cwIoWe), (60, Instr.aluNop), (61, Instr.aluShift), (62, Instr.aluAdd), (63, Instr.aluSub), (64,
     Instr.aluInv), (65, Instr.aluXor), (66, Instr.aluOr), (67, Instr.aluAnd)].all
      (fun p => reads [p.1, 0, 0, 0, 0x16, 0x82, 0x08, 0, 0, 0, 0, 0] (p.2 0x088216)) = true := by decide

/-- The call frames of the decision cells: rows 68 to 123, no operand. -/
theorem test_decode_cell_calls :
    (decisionRows.zip (List.range 56)).all (fun p => reads [68 + p.2, 0, 0, 0] p.1) = true ∧ decisionRows.length = 56 := by
  decide

/-- The words of the 56 decision cells, from the `match` column of spec/opcode_table.json (log 3). -/
def cellWords : List (Instr × Nat × Bool) :=
  List.flatten [
    [(.jdecI1J0, 0x0130, false), (.jdecI1J1, 0x0132, true), (.jdecI1J2, 0x0134, false), (.jdecI1J3, 0x0136, true),
   (.jdecI1J4, 0x0138, false), (.jdecI1J5, 0x013A, true), (.jdecI1J6, 0x013C, false), (.jdecI1J7, 0x013E, true)],
    [(.jdecI2J0, 0x0230, false), (.jdecI2J1, 0x0232, false), (.jdecI2J2, 0x0234, true), (.jdecI2J3, 0x0236, true),
   (.jdecI2J4, 0x0238, false), (.jdecI2J5, 0x023A, false), (.jdecI2J6, 0x023C, true), (.jdecI2J7, 0x023E, true)],
    [(.jdecI3J0, 0x0330, false), (.jdecI3J1, 0x0332, true), (.jdecI3J2, 0x0334, true), (.jdecI3J3, 0x0336, true),
   (.jdecI3J4, 0x0338, false), (.jdecI3J5, 0x033A, true), (.jdecI3J6, 0x033C, true), (.jdecI3J7, 0x033E, true)],
    [(.jdecI4J0, 0x0430, false), (.jdecI4J1, 0x0432, false), (.jdecI4J2, 0x0434, false), (.jdecI4J3, 0x0436, false),
   (.jdecI4J4, 0x0438, true), (.jdecI4J5, 0x043A, true), (.jdecI4J6, 0x043C, true), (.jdecI4J7, 0x043E, true)],
    [(.jdecI5J0, 0x0530, false), (.jdecI5J1, 0x0532, true), (.jdecI5J2, 0x0534, false), (.jdecI5J3, 0x0536, true),
   (.jdecI5J4, 0x0538, true), (.jdecI5J5, 0x053A, true), (.jdecI5J6, 0x053C, true), (.jdecI5J7, 0x053E, true)],
    [(.jdecI6J0, 0x0630, false), (.jdecI6J1, 0x0632, false), (.jdecI6J2, 0x0634, true), (.jdecI6J3, 0x0636, true),
   (.jdecI6J4, 0x0638, true), (.jdecI6J5, 0x063A, true), (.jdecI6J6, 0x063C, true), (.jdecI6J7, 0x063E, true)],
    [(.jdecI7J0, 0x0730, false), (.jdecI7J1, 0x0732, true), (.jdecI7J2, 0x0734, true), (.jdecI7J3, 0x0736, true),
   (.jdecI7J4, 0x0738, true), (.jdecI7J5, 0x073A, true), (.jdecI7J6, 0x073C, true), (.jdecI7J7, 0x073E, true)]]

/-- The 16-bit word of each decision cell decodes to its row. -/
theorem test_decode_cell_words :
    cellWords.all (fun p => decodeTableWord 16 p.2.1 == some p.1) = true := by decide +kernel

/-- The words of the selector values, of the condition bits and of the ALU codes, from the `match` column (log 3). -/
theorem test_decode_value_words :
    decodeTableWord 16 0x0100 = some (.sel1 0x0100) ∧
    decodeTableWord 16 0x0200 = some (.sel2 0x0200) ∧
    decodeTableWord 16 0x0300 = some (.sel3 0x0300) ∧
    decodeTableWord 16 0x0400 = some (.sel4 0x0400) ∧
    decodeTableWord 16 0x0500 = some (.sel5 0x0500) ∧
    decodeTableWord 16 0x0600 = some (.sel6 0x0600) ∧
    decodeTableWord 16 0x0700 = some (.sel7 0x0700) ∧
    decodeTableWord 8 1 = some (.cond0 1) ∧ decodeTableWord 16 1 = some (.cond0 1) ∧
    decodeTableWord 8 2 = some (.cond1 2) ∧ decodeTableWord 16 2 = some (.cond1 2) ∧
    decodeTableWord 8 4 = some (.cond2 4) ∧ decodeTableWord 16 4 = some (.cond2 4) ∧
    decodeTableWord 8 8 = some (.cond3 8) ∧ decodeTableWord 16 8 = some (.cond3 8) ∧
    decodeTableWord 24 0x000100 = some (.aluShift 0x000100) ∧
    decodeTableWord 24 0x000200 = some (.aluAdd 0x000200) ∧
    decodeTableWord 24 0x000300 = some (.aluSub 0x000300) ∧
    decodeTableWord 24 0x000400 = some (.aluInv 0x000400) ∧
    decodeTableWord 24 0x000500 = some (.aluXor 0x000500) ∧
    decodeTableWord 24 0x000600 = some (.aluOr 0x000600) ∧
    decodeTableWord 24 0x000700 = some (.aluAnd 0x000700) := by decide +kernel

/-- Words of ENCODE (10100 00 0 ... of 40_address_codec.md R60), DECODE (bit 10 set), JDEC and CWUNPACK. -/
theorem test_decode_pattern_words :
    decodeTableWord 16 0b1010_1000_0101_1001 = some (.encode 10 1 0 5 9) ∧
    decodeTableWord 16 0b1110_0101_0010_0100 = some (.decode 0xE524) ∧
    decodeTableWord 16 0b1110_0101_0011_0100 = some .jdec ∧
    decodeTableWord 24 0b0000_1000_1000_0010_0001_0110 = some (.cwunpack 0x088216) := by decide

/-- What is no call is refused by name: no byte, an unknown row, too few operand bytes. -/
theorem test_decode_rejects :
    (match decode [] with | .error e => e == .empty | .ok _ => false) = true ∧
    (match decode (bytes [124, 0, 0, 0]) with | .error e => e == .unknownCode 124 | .ok _ => false) = true ∧
    (match decode (bytes [1, 0, 0, 0, 7]) with | .error e => e == .badOperands 1 | .ok _ => false) = true := by decide +kernel

/-! ## Address codec (95_test_vectors.md section 2) -/

theorem test_encode_example : resultOf (.encode 10 1 0 5 9) = some (.address 0xA859) ∧
    resultOf (.encode 15 1 1 15 15) = some (.address 0xF9FF) := by decide

theorem test_encode_first_fault_wins :
    resultOf (.encode 16 2 2 16 16) = some (.fault (.fieldOverlap (.operand .opc) (.num 16))) ∧
    resultOf (.encode 0 0 0 0 16) = some (.fault (.fieldOverlap (.operand .cond) (.num 16))) := by decide

theorem test_decode_keeps_reserved_field : resultOf (.decode 0xE534) = some (.general ⟨14, 0, 2, 1, 3, 4⟩) ∧
    resultOf (.decode 0xFFFF) = some (.general ⟨15, 1, 3, 1, 15, 15⟩) := by decide

theorem test_decode_wide_address :
    resultOf (.decode 65536) = some (.fault (.fieldOverlap (.operand .address) (.num 65536))) := by decide

theorem test_encodej_example : resultOf (.encodej 0xE020 5 4) = some (.address 0xE524) ∧
    resultOf (.encodej 0xF8F0 7 15) = some (.address 0xFFFF) := by decide

theorem test_encodej_rejects_instead_of_carrying :
    resultOf (.encodej 0xE130 1 0) = some (.fault (.fieldOverlap (.operand .taddr) (.num 0xE130))) ∧
    resultOf (.encodej 0xE020 8 0) = some (.fault (.fieldOverlap (.operand .sel) (.num 8))) := by decide

theorem test_decodej_example : resultOf (.decodej 0xE535) = some (.jump ⟨0xE030, ⟨5⟩, 3, 5, ⟨2⟩, 1⟩) ∧
    resultOf (.decodej 0xFFFF) = some (.jump ⟨0xF8F0, ⟨7⟩, 15, 15, ⟨7⟩, 1⟩) := by decide

/-! ## Control-word codec (95_test_vectors.md section 4) -/

theorem test_lanebyte_ignores_top_byte : resultOf (.lanebyte 0xAB123456 2) = some (.laneByte 0x12) ∧
    resultOf (.lanebyte 0x088216 1) = some (.laneByte 0x82) := by decide

theorem test_lanebyte_faults :
    resultOf (.lanebyte 0x123456 3) = some (.fault (.fieldOverlap (.operand .lane) (.num 3))) ∧
    resultOf (.lanebyte (2 ^ 32) 0) = some (.fault (.fieldOverlap (.operand .cw) (.num 4294967296))) := by decide

theorem test_lanejoin_example : resultOf (.lanejoin 0x56 0x34 0x12) = some (.word 0x123456) := by decide

theorem test_lanejoin_fault :
    resultOf (.lanejoin 0x100 0 0) = some (.fault (.fieldOverlap (.operand .lanebyte) (.triple 256 0 0))) := by decide

theorem test_cwpack_example : resultOf (.cwpack exampleRecord) = some (.word 0x088216) ∧
    resultOf (.cwpack fullRecord) = some (.word 0xFFFFFF) := by decide

theorem test_cwpack_fault : resultOf (.cwpack { exampleRecord with incPc := 2 }) =
    some (.fault (.fieldOverlap (.field .incPc) (.num 2))) := by decide

theorem test_cwunpack_example : resultOf (.cwunpack 0x088216) = some (.signals exampleRecord) := by decide

/-! ## Store and expansion (95_test_vectors.md sections 4.3 and 4.4) -/

theorem test_place_one_cell : lanesAfter bare (.place 0x3022 1 0x5A) 0x3022 = some [none, some 0x5A, none] ∧
    cellAfter bare (.place 0xFFFF 2 0xFF) 2 0xFFFF = some (some 0xFF) := by decide

theorem test_place_fault :
    resultOf (.place 0x10000 0 0) = some (.fault (.fieldOverlap (.operand .place) (.triple 65536 0 0))) ∧
    resultOf (.place 0 3 0) = some (.fault (.fieldOverlap (.operand .place) (.triple 0 3 0))) := by decide

theorem test_imgread_written_and_fill : resultFrom finishedExample (.imgread 1 0x3020) = some (.imageByte 0x82) ∧
    resultFrom finishedExample (.imgread 1 0x3021) = some (.imageByte 0) := by decide

theorem test_imgread_refused_before_finished :
    refusalOf (exec (.imgread 1 0x3020) State.reset) = some .readBeforeFinished := by decide

theorem test_emit_three_lanes :
    lanesAfter bare (.emit 0x3020 0x088216) 0x3020 = some [some 0x16, some 0x82, some 0x08] := by decide

/-- A rejected middle lane is logged and the other two are stored (42_table_expansion.md R80). -/
theorem test_emit_rejected_lane :
    (nextOf (exec (.emit 0x3020 0x088216) { bare with params := { bare.params with
      rejects := [⟨some 1, none, none, none⟩] } })).map (fun t => ([t.cell 0 0x3020, t.cell 1 0x3020, t.cell 2 0x3020], t.diag)) =
      some ([some 0x16, none, some 0x08], [⟨0x3020, 1⟩]) := by decide

theorem test_expand_fixed_nibble_zero_is_no_wildcard :
    lanesAfter bare (.expandFixed 3 0 0 2 0 0x0C8216) 0x3020 = some [some 0x16, some 0x82, some 0x0C] ∧
    cellAfter bare (.expandFixed 3 0 0 2 0 0x0C8216) 0 0x3021 = some none := by decide

theorem test_expand_wild_row : lanesAfter bare (.expandWild 15 1 1 15 0xFFFFFF) 0xF9FF = some [some 0xFF, some 0xFF, some 0xFF] ∧
    cellAfter bare (.expandWild 3 0 0 2 0x088216) 0 0x3030 = some none := by decide +kernel

theorem test_expand_table_override : lanesAfter (example_ overrideTable []) .expandTable 0x3022 = some [some 0x16, some 0x82, some 0x0C] ∧
    lanesAfter (example_ overrideTable []) .expandTable 0x302F = some [some 0x16, some 0x82, some 0x08] := by decide +kernel

/-- A wildcard after the fixed entry erases the override (70_reset_and_hazards.md R134). -/
theorem test_expand_table_order_hazard :
    lanesAfter (example_ overrideTable.reverse []) .expandTable 0x3022 = some [some 0x16, some 0x82, some 0x08] := by decide +kernel

/-! ## Jump expander (95_test_vectors.md sections 3 and 4.5) -/

theorem test_jseq_first_and_last : (nextOf (exec .jseq (example_ [] [⟨0xE020, 0x200000⟩]))).map (fun t =>
    [t.cell 2 0xE120, t.cell 2 0xE72F, t.cell 2 0xE020, t.cell 2 0xE730]) =
      some [some 0x20, some 0x20, none, none] := by decide +kernel

theorem test_jseq_skips_decision_step :
    (nextOf (exec .jseq (example_ [] [⟨0xE030, 0x555555⟩]))).map (fun t => (t.placed, t.img0)) = some (0, []) := by decide +kernel

/-- Scenario S6: abort at 0xE534, continue at 0xE538, nothing at the odd nibble or at selector 0. -/
theorem test_jdec_scenario : (nextOf (exec .jdec bare)).map (fun t =>
    [t.cell 0 0xE534, t.cell 0 0xE538, t.cell 0 0xE535, t.cell 0 0xE030]) =
      some [some 0x00, some 0x46, none, none] := by decide +kernel

/-- Each decision cell holds CW_CONTINUE or CW_ABORT as the `word` column of spec/opcode_table.json says. -/
theorem test_decision_cells : cellWords.all (fun p =>
    cellAfter bare p.1 0 (0xE000 + p.2.1) == some (some (if p.2.2 then 0x46 else 0x00))) = true := by decide +kernel

/-! ## Whole run and read path (95_test_vectors.md section 5) -/

theorem test_validate_passes : resultFrom (example_ overrideTable stepTemplate) .validate = some .done := by decide +kernel

theorem test_validate_equal_decision_words :
    resultFrom { bare with params := { bare.params with cwAbort := 0x080046 } } .validate =
      some (.fault (.malformedEntry .decisionWords 0)) := by decide

theorem test_generate_finishes : (nextOf (exec .generate bare)).map (fun t =>
    (t.result, t.finished, t.placed, t.diag, t.cell 0 0xE73E)) = some (.finished, true, 168, [], some 0x46) := by decide +kernel

theorem test_generate_fatal :
    (nextOf (exec .generate { bare with params := { bare.params with jumpBase := 0xE030 } })).map (fun t =>
      (t.result, t.finished, t.img0)) =
      some (.fatal (.fieldOverlap (.operand .jumpBase) (.num 0xE030)), false, []) := by decide

theorem test_lookup_joins_lanes : resultFrom finishedExample (.lookup 0x3020) = some (.word 0x088216) ∧
    resultFrom finishedExample (.lookup 0x3021) = some (.word 0) := by decide

theorem test_lookup_refused_before_finished : refusalOf (exec (.lookup 0x3020) bare) = some .readBeforeFinished := by decide

/-- A step takes the first pending call and runs it. -/
theorem test_step_runs_fetched_word :
    (nextOf (step (bare.withFetchWord 16 0x0534))).map (fun t => (t.calls, t.cell 0 0xE534)) = some ([], some 0x00) := by decide

/-! ## Readings of an address and of a word (30_encoding.md sections 1 and 2) -/

/-- The address fields of 0xF534, read bit by bit: 1111 0 10 1 0011 0100. -/
theorem test_address_fields : [Instr.magOpc, .magAm, .magRsv, .magPf, .magStep, .magCond, .majSel].map (fun f => resultOf (f 0xF534)) =
    [15, 0, 2, 1, 3, 4, 5].map (fun v => some (.field v)) := by decide

theorem test_formats : resultFrom bare (.formatMaG 0xE534) = some (.formatG false ⟨14, 0, 2, 1, 3, 4⟩) ∧
    resultFrom bare (.formatMaJ 0xE534) = some (.formatJ true ⟨0xE030, ⟨5⟩, 3, 4, ⟨2⟩, 0⟩) ∧
    resultFrom bare (.formatMaG 0xA859) = some (.formatG true ⟨10, 1, 0, 0, 5, 9⟩) ∧
    resultOf (.formatCw 0x088216) = some (.lanes 0x16 0x82 0x08) := by decide

/-- Nibble 0110 is carry and negative (30_encoding.md R44). -/
theorem test_condition_bits : [Instr.cond0, .cond1, .cond2, .cond3].map (fun f => resultOf (f 0x3026)) =
    [some (.status .interruptPending false), some (.status .carry true), some (.status .negative true),
     some (.status .zero false)] := by decide

/-- 0xE534 carries selector 5, which tests carry and zero. -/
theorem test_selector_values : resultOf (.sel5 0xE534) = some (.selector true true false true) ∧
    resultOf (.sel2 0xE534) = some (.selector false false true false) ∧
    [Instr.sel0, .sel1, .sel2, .sel3, .sel4, .sel5, .sel6, .sel7].map (fun f => resultOf (f 0x0700)) =
      [some (.selector false false false false), some (.selector false true false false),
       some (.selector false false true false), some (.selector false true true false),
       some (.selector false false false true), some (.selector false true false true),
       some (.selector false false true true), some (.selector true true true true)] := by decide

/-- The control-word fields of 0xABCDEF (95_test_vectors.md section 4.2), in row order. -/
theorem test_control_fields :
    [Instr.cwNextStep, .cwLdAddrHi, .cwLdAddrLo, .cwMemOe, .cwMemWe, .cwLdIr, .cwLdA, .cwLdB, .cwLdRes, .cwResOe, .cwAluOp,
     .cwLdPcHi, .cwLdPcLo, .cwPcHiOe, .cwPcLoOe, .cwIncPc, .cwLdIo, .cwIoOe, .cwIoWe].map (fun f => resultOf (f 0xABCDEF)) =
      [14, 1, 1, 1, 1, 1, 1, 0, 0, 1, 5, 1, 0, 1, 0, 1, 0, 1, 1].map (fun v => some (.field v)) := by decide +kernel

/-- Each ALU code is present in its own word and in no other (95_test_vectors.md section 4.2). -/
theorem test_alu_codes :
    [Instr.aluNop, .aluShift, .aluAdd, .aluSub, .aluInv, .aluXor, .aluOr, .aluAnd].map (fun f => resultOf (f 0x088216)) =
      [some (.alu .nop false), some (.alu .shift false), some (.alu .add true), some (.alu .sub false),
       some (.alu .inv false), some (.alu .xor false), some (.alu .or false), some (.alu .and false)] ∧
    ([(Instr.aluNop, AluOp.nop, 0), (.aluShift, .shift, 1), (.aluAdd, .add, 2), (.aluSub, .sub, 3), (.aluInv, .inv, 4),
      (.aluXor, .xor, 5), (.aluOr, .or, 6), (.aluAnd, .and, 7)].all fun p =>
        resultOf (p.1 (p.2.2 * 256)) == some (.alu p.2.1 true)) = true := by decide

/-! ## Witnesses: for every statement with hypotheses, values that meet them, one group for each clause -/

/-- A state whose parameters hold a table, an override, a template and a decision-step entry. -/
def sample : State := example_ overrideTable stepTemplate

/-- The sample state with a medium that rejects every placement on chip 1. -/
def sampleRejecting : State := { sample with params := { sample.params with rejects := [⟨some 1, none, none, none⟩] } }

/-- The sample's medium accepts everything, and the other one does not. -/
theorem sample_acceptsAll : sample.params.acceptsAll ∧ ¬ sampleRejecting.params.acceptsAll :=
  ⟨fun _ _ _ _ => rfl, fun h => absurd (h 1 0 0 0) (by decide)⟩

/-- The entries and template entries of the sample are in range. -/
theorem sample_entries_inRange : (∀ e ∈ overrideTable, e.inRange) ∧ (∀ x ∈ stepTemplate, x.inRange) := by
  refine ⟨fun e h => ?_, fun x h => ?_⟩
  · simp only [overrideTable, List.mem_cons, List.not_mem_nil, or_false] at h
    rcases h with rfl | rfl
    · exact ⟨by decide, by decide, by decide, by decide, fun n hn => (by cases hn), by decide⟩
    · exact ⟨by decide, by decide, by decide, by decide, fun n hn => by cases hn; decide, by decide⟩
  · simp only [stepTemplate, List.mem_cons, List.not_mem_nil, or_false] at h
    rcases h with rfl | rfl <;> exact ⟨by decide, by decide, by decide, by decide⟩

/-- Lists of entries in range, with the example's other parameters, meet every constraint of VALIDATE. -/
theorem exampleParams_meets {es : List Entry} {ts : List TemplateEntry} (he : ∀ e ∈ es, e.inRange)
    (ht : ∀ x ∈ ts, x.inRange) : (exampleParams es ts).meetsConstraints := by
  have values : Layout.default.valid = true ∧ (0xE000 ≤ 65535 ∧ 0xE000 % 2048 = 0) ∧ 0x080046 < 2 ^ 24 ∧
      0x080000 < 2 ^ 24 ∧ 0x080046 ≠ 0x080000 ∧ 0 < 256 ∧ 0 < 256 ∧ 0 < 256 := by decide
  refine ⟨values.1, fun el h => ?_, fun el h => ?_, values.2⟩
  · obtain ⟨e, h1, rfl⟩ := List.mem_map.mp h
    exact ⟨e, by obtain ⟨a, b, c, d, f, g⟩ := e; cases f <;> rfl, he e h1⟩
  · obtain ⟨x, h1, rfl⟩ := List.mem_map.mp h
    exact ⟨x, rfl, ht x h1⟩

/-- The sample's parameters meet every constraint of VALIDATE. -/
theorem sample_meets : sample.params.meetsConstraints :=
  exampleParams_meets sample_entries_inRange.1 sample_entries_inRange.2

/-- The largest legal template-step address, selector and nibble. -/
theorem test_witness_EncodejReturnsSumOrFirstFault :
    0xF8F0 ≤ 65535 ∧ 0xF8F0 / 256 % 8 = 0 ∧ 0xF8F0 % 16 = 0 ∧ 7 ≤ 7 ∧ 15 ≤ 15 := by decide

/-- Fields at their maxima; one address from two equal tuples; the highest address. -/
theorem test_witness_AddressRoundTrip : (15 ≤ 15 ∧ 1 ≤ 1) ∧ encodeAddress 15 1 1 15 15 = .ok 0xF9FF ∧ 65535 < 65536 :=
  ⟨by decide, rfl, by decide⟩

theorem test_witness_JumpAddressRoundTrip :
    (0xF8F0 ≤ 65535 ∧ 0xF8F0 / 256 % 8 = 0 ∧ 0xF8F0 % 16 = 0 ∧ 7 ≤ 7 ∧ 15 ≤ 15) ∧ 65535 < 65536 := by decide

/-- An encodable address and one that is not. -/
theorem test_witness_EncodableIsImageOfEncode :
    0xF9FF < 65536 ∧ encodable 0xF9FF = true ∧ 0xFFFF < 65536 ∧ encodable 0xFFFF = false := by decide

theorem test_witness_LanejoinReturnsWord : (255 < 256 ∧ 255 < 256 ∧ 255 < 256) ∧ (256 ≤ 0 ∨ 256 ≤ 0 ∨ 256 ≤ 256) := by decide

theorem test_witness_LaneReconstruction : 0xAB123456 < 2 ^ 32 ∧ 0xFFFFFF < 2 ^ 24 ∧ 255 < 256 := by decide

/-- A legal record; a record whose last field in row order is the first outside its width. -/
theorem test_witness_CwpackSumsFieldsOrFirstFault : legalRecord fullRecord ∧
    rowOrder = rowOrder.take 18 ++ CwField.ioWe :: [] ∧
    (∀ g ∈ rowOrder.take 18, ({ fullRecord with ioWe := 2 } : CwRecord).get g < 2 ^ g.width) ∧
    2 ^ CwField.ioWe.width ≤ ({ fullRecord with ioWe := 2 } : CwRecord).get .ioWe :=
  ⟨fun f => by cases f <;> decide, by decide, by decide, by decide⟩

theorem test_witness_CwunpackReturnsEveryField : 2 ^ 32 - 1 < 2 ^ 32 ∧ 2 ^ 32 ≤ 2 ^ 32 := by decide

theorem test_witness_SignalRoundTripUnderEveryLayout :
    Layout.default.valid = true ∧ legalRecord fullRecord ∧ 0xAB123456 < 2 ^ 32 :=
  ⟨by decide, fun f => by cases f <;> decide, by decide⟩

/-- The default layout, and one with the lane indices exchanged, are valid; bit 23 is the highest. -/
theorem test_witness_ValidLayoutPartitionsTheWord : Layout.default.valid = true ∧ 23 < 24 := by decide

/-- A word of 2^24 in each place that VALIDATE looks at. -/
theorem test_witness_ContainerUpperByteIsIgnored : 0xFF000000 < 2 ^ 32 ∧ 0xFFFF < 65536 ∧ sample.params.cwl.valid = true ∧
    2 ^ 24 ≤ ({ sample.params with cwContinue := 2 ^ 24 } : Params).cwContinue ∧
    2 ^ 24 ≤ ({ sample.params with cwAbort := 2 ^ 24 } : Params).cwAbort ∧
    (∃ el ∈ (exampleParams [⟨15, 1, 1, 15, .any, 2 ^ 24⟩] []).table, ∃ e, parseEntry el = some e ∧ 2 ^ 24 ≤ e.cw) ∧
    (∃ el ∈ (exampleParams [] [⟨0xF8F0, 2 ^ 24⟩]).template, ∃ t, parseTemplate el = some t ∧ 2 ^ 24 ≤ t.cw) :=
  ⟨by decide, by decide, by decide, by decide, by decide, ⟨_, .head _, _, rfl, Nat.le_refl _⟩,
    ⟨_, .head _, _, rfl, Nat.le_refl _⟩⟩

/-- Accepted and rejected at the highest address, chip and value; out of range at the next address. -/
theorem test_witness_PlaceStoresOneByteOrLogs : (65535 < 65536 ∧ 2 < 3 ∧ 255 < 256) ∧
    sample.params.placeOK 2 65535 255 sample.placed = true ∧
    sampleRejecting.params.placeOK 1 65535 255 sampleRejecting.placed = false ∧ (65536 ≤ 65536 ∨ 3 ≤ 0 ∨ 256 ≤ 0) := by decide

theorem test_witness_ImgreadReturnsFinishedByte : (2 < 3 ∧ 65535 < 65536 ∧ finishedExample.finished = true) ∧
    sample.finished = false ∧ (3 ≤ 3 ∨ 65536 ≤ 0) := by decide

theorem test_witness_LookupJoinsTheThreeImages : 65535 < 65536 ∧ (65535 ≤ 65535 ∧ sample.finished = false) ∧
    finishedExample.finished = true ∧ finishedExample.params.fill0 < 256 ∧ finishedExample.params.fill1 < 256 ∧
    finishedExample.params.fill2 < 256 := by decide

theorem test_witness_EmitStoresThreeLanes : (65535 < 65536 ∧ 0x088216 < 2 ^ 32) ∧
    ((∀ c, c < 3 → finishedExample.params.placeOK c 65535 (laneOfWord 0x088216 c).toNat (finishedExample.placed + c) = true) ∧
      0x088216 < 2 ^ 24 ∧ finishedExample.finished = true) ∧ 2 ^ 32 ≤ 2 ^ 32 ∧ 65536 ≤ 65536 := by decide

theorem test_witness_ExpandFixedEmitsOnce : (15 ≤ 15 ∧ 1 ≤ 1 ∧ 1 ≤ 1 ∧ 15 ≤ 15 ∧ 15 ≤ 15 ∧ 0xFFFFFF < 2 ^ 32) ∧
    (15 < 0 ∨ 1 < 0 ∨ 1 < 0 ∨ 15 < 0 ∨ 15 < 16) := by decide

theorem test_witness_ExpandWildFillsTheRow : (15 ≤ 15 ∧ 1 ≤ 1 ∧ 1 ≤ 1 ∧ 15 ≤ 15 ∧ 0xFFFFFF < 2 ^ 32) ∧
    sample.params.acceptsAll ∧ (15 < 0 ∨ 1 < 0 ∨ 1 < 0 ∨ 15 < 16) := ⟨by decide, sample_acceptsAll.1, by decide⟩

/-- The sample's table; its second entry is the last that names 0x3022, its first the last that names 0x302F. -/
theorem test_witness_ExpandTableLastEntryWins : sample.params.table = overrideTable.map Entry.raw ∧
    (∀ e ∈ overrideTable, e.inRange) ∧ sample.params.acceptsAll ∧ overrideTable[1].names 0x3022 = true ∧
    overrideTable[0].names 0x302F = true ∧ overrideTable[1].names 0x302F = false :=
  ⟨rfl, sample_entries_inRange.1, sample_acceptsAll.1, by decide, by decide, by decide⟩

theorem test_witness_TableEntryNamesItsAddresses : overrideTable[1].inRange ∧ overrideTable[1].names 0x3022 = true ∧
    overrideTable[1].names 0x3023 = false :=
  ⟨sample_entries_inRange.1 _ (by decide), by decide, by decide⟩

theorem test_witness_OverrideLocalityAndOrderHazard : (3 ≤ 15 ∧ 0 ≤ 1 ∧ 0 ≤ 1 ∧ 2 ≤ 15 ∧ 15 ≤ 15) ∧ 0x088216 < 2 ^ 24 ∧
    0x0C8216 < 2 ^ 24 ∧ sample.params.acceptsAll := ⟨by decide, by decide, by decide, sample_acceptsAll.1⟩

/-- Each of the three calls answers a next state, and 0x3622 has bits 10:9 set. -/
theorem test_witness_TableNeverReachesReservedBits : (2 < 3 ∧ 0x3622 / 512 % 4 ≠ 0) ∧
    (nextOf (exec .expandTable sample)).isSome = true ∧ (nextOf (exec (.expandWild 3 0 0 2 5) sample)).isSome = true ∧
    (nextOf (exec (.expandFixed 3 0 0 2 2 5) sample)).isSome = true := by decide +kernel

theorem test_witness_PassesRefuseMalformedElements : parseEntry [.nat 3] = none ∧ parseTemplate [.nat 3, .any] = none := by
  decide

/-- The sample's template: the entry at 0xE020 is copied, the one at the decision step is not. -/
theorem test_witness_JseqCopiesTheTemplate : sample.params.template = stepTemplate.map TemplateEntry.raw ∧
    (∀ x ∈ stepTemplate, x.inRange) ∧ sample.params.acceptsAll ∧ stepTemplate[0].taddr ≠ sample.params.decTaddr ∧
    stepTemplate[1].taddr = sample.params.decTaddr ∧ (1 ≤ 7 ∧ 7 ≤ 7 ∧ 15 ≤ 15) ∧
    0xE021 ≠ sample.params.decTaddr ∧ (65535 < 0xE021 ∨ 0xE021 / 256 % 8 ≠ 0 ∨ 0xE021 % 16 ≠ 0) :=
  ⟨rfl, sample_entries_inRange.2, sample_acceptsAll.1, by decide, by decide, by decide, by decide, by decide⟩

theorem test_witness_SelectorZeroIsNeverGenerated : (2 < 3 ∧ 0xE0FF / 256 % 8 = 0) ∧
    (nextOf (exec .jseq sample)).isSome = true ∧ (nextOf (exec .jdec sample)).isSome = true := by decide +kernel

theorem test_witness_DecisionStepIsNotCopied : 0xE73F &&& 0xF8F0 = sample.params.jumpBase + 0x0030 ∧
    (nextOf (exec .jseq sample)).isSome = true := by decide +kernel

/-- JUMP_BASE at its largest legal value, 0xF800, and the sample's; the corner cells are in range. -/
theorem test_witness_JdecWritesTheTruthTable : (0xF800 ≤ 65535 ∧ 0xF800 % 2048 = 0) ∧ sample.params.jumpBase ≤ 65535 ∧
    sample.params.jumpBase % 2048 = 0 ∧ sample.params.cwContinue < 2 ^ 32 ∧ sample.params.cwAbort < 2 ^ 32 ∧
    sample.params.acceptsAll ∧ (1 ≤ 7 ∧ 7 ≤ 7 ∧ 7 ≤ 7) :=
  ⟨by decide, by decide, by decide, by decide, by decide, sample_acceptsAll.1, by decide⟩

theorem test_witness_DecisionCellRowsEmitOneCell : decisionCellOf .jdecI1J0 = some (1, 0) ∧
    decisionCellOf .jdecI7J7 = some (7, 7) ∧ sample.params.jumpBase ≤ 65535 ∧ sample.params.jumpBase % 2048 = 0 ∧
    sample.params.cwContinue < 2 ^ 32 ∧ sample.params.cwAbort < 2 ^ 32 ∧ sample.params.acceptsAll :=
  ⟨by decide, by decide, by decide, by decide, by decide, by decide, sample_acceptsAll.1⟩

/-- A base too high, one with a selector bit, one with a nibble bit. -/
theorem test_witness_JdecRejectsUnvalidatedBase : 65535 < 65488 + 0x0030 ∧ (0xE100 + 0x0030) / 256 % 8 ≠ 0 ∧
    (0xE001 + 0x0030) % 16 ≠ 0 := by decide

/-- Both passes answer from the sample; each changes a cell of its last row. -/
theorem test_witness_PassAddressSetsAreDisjoint : sample.params.jumpBase ≤ 65535 ∧ sample.params.jumpBase % 2048 = 0 ∧ 2 < 3 ∧
    sample.cell 2 0xE72F = none ∧ cellAfter sample .jseq 2 0xE72F = some (some 0x20) ∧
    sample.cell 2 0xE73E = none ∧ cellAfter sample .jdec 2 0xE73E = some (some 0x08) := by decide +kernel

/-- The sample meets the constraints; equal decision words do not. -/
theorem test_witness_ValidatePassesExactly : sample.params.meetsConstraints ∧
    ¬ ({ sample.params with cwAbort := 0x080046 } : Params).meetsConstraints :=
  ⟨sample_meets, fun h => h.2.2.2.2.2.2.1 rfl⟩

/-- A layout whose first and only offending field is the last in row order. -/
def offendingLayout : Layout := { Layout.default with ioWe := ⟨3, 0⟩ }

/-- A layout that offends; in TABLE and in JUMP_TEMPLATE a good element, and one offending in each of the ways the statement
names; scalars with a violation of each, and with none. -/
theorem test_witness_FirstViolationIsReported :
    (rowOrder = rowOrder.take 18 ++ CwField.ioWe :: [] ∧ (∀ g ∈ rowOrder.take 18, offendingLayout.offends g = false) ∧
      offendingLayout.offends .ioWe = true) ∧
    (sample.params.cwl.valid = true ∧ tableInRange [overrideTable[0].raw] ∧ parseEntry [.nat 3] = none ∧
      parseEntry [.nat 16, .nat 0, .nat 0, .nat 0, .any, .nat 0] = some ⟨16, 0, 0, 0, .any, 0⟩ ∧
      parseEntry [.nat 15, .nat 2, .nat 1, .nat 15, .any, .nat 0] = some ⟨15, 2, 1, 15, .any, 0⟩ ∧
      parseEntry [.nat 15, .nat 1, .nat 2, .nat 15, .any, .nat 0] = some ⟨15, 1, 2, 15, .any, 0⟩ ∧
      parseEntry [.nat 15, .nat 1, .nat 1, .nat 16, .any, .nat 0] = some ⟨15, 1, 1, 16, .any, 0⟩ ∧
      parseEntry [.nat 15, .nat 1, .nat 1, .nat 15, .only 16, .nat 0] = some ⟨15, 1, 1, 15, .only 16, 0⟩ ∧
      parseEntry [.nat 15, .nat 1, .nat 1, .nat 15, .only 15, .nat 16777216] = some ⟨15, 1, 1, 15, .only 15, 2 ^ 24⟩) ∧
    (tableInRange sample.params.table ∧ templateInRange [stepTemplate[0].raw] ∧ parseTemplate [.any, .nat 0] = none ∧
      (parseTemplate [.nat 65536, .nat 0] = some ⟨65536, 0⟩ ∧ 65535 < 65536) ∧
      (parseTemplate [.nat 0xE120, .nat 0] = some ⟨0xE120, 0⟩ ∧ 0xE120 / 256 % 8 ≠ 0) ∧
      (parseTemplate [.nat 0xE021, .nat 0] = some ⟨0xE021, 0⟩ ∧ 0xE021 % 16 ≠ 0) ∧
      parseTemplate [.nat 0xF8F0, .nat 16777216] = some ⟨0xF8F0, 2 ^ 24⟩) ∧
    (templateInRange sample.params.template ∧ (65535 < 65536 ∨ 65536 % 2048 ≠ 0) ∧ 0xE400 % 2048 ≠ 0) :=
  ⟨⟨by decide, by decide, by decide⟩,
    ⟨by decide, fun el h => sample_meets.2.1 el (by cases h with | head => exact .head _ | tail _ h => cases h), rfl, rfl, rfl,
      rfl, rfl, rfl, rfl⟩,
    ⟨sample_meets.2.1, fun el h => sample_meets.2.2.1 el (by cases h with | head => exact .head _ | tail _ h => cases h), rfl,
      ⟨rfl, by decide⟩, ⟨rfl, by decide⟩, ⟨rfl, by decide⟩, rfl⟩,
    ⟨sample_meets.2.2.1, by decide, by decide⟩⟩

theorem test_witness_FatalFaultDeliversNoImage :
    validate { sample.params with cwAbort := 0x080046 } = some (.malformedEntry .decisionWords 0) ∧ 65535 < 65536 ∧ 2 < 3 := by
  decide +kernel

/-- Constraints met on a medium that accepts everything and on one that rejects chip 1; equal decision words. -/
theorem test_witness_GenerateRunsThePassesInOrder : sample.params.meetsConstraints ∧ sample.params.acceptsAll ∧
    sampleRejecting.params.meetsConstraints ∧ ¬ sampleRejecting.params.acceptsAll ∧
    validate { sample.params with cwAbort := 0x080046 } = some (.malformedEntry .decisionWords 0) :=
  ⟨sample_meets, sample_acceptsAll.1, sample_meets, sample_acceptsAll.2, by decide +kernel⟩

theorem test_witness_GenerateForgetsEarlierState : sample.params = { sample with placed := 7, diag := [⟨1, 2⟩] }.params ∧
    sample.calls = { sample with placed := 7, diag := [⟨1, 2⟩] }.calls := ⟨rfl, rfl⟩

theorem test_witness_LookupAfterGenerateIsResolve :
    sample.params.meetsConstraints ∧ sample.params.acceptsAll ∧ 65535 < 65536 := ⟨sample_meets, sample_acceptsAll.1, by decide⟩

theorem test_witness_LookupIsTotalAfterGenerate : sampleRejecting.params.meetsConstraints ∧ 65535 ≤ 65535 :=
  ⟨sample_meets, by decide⟩

theorem test_witness_FinishedImagesHoldTheLanes :
    sample.params.meetsConstraints ∧ sample.params.acceptsAll ∧ 2 < 3 ∧ 65535 < 65536 := ⟨sample_meets, sample_acceptsAll.1, by decide⟩

/-- A table entry with pf = 1 at the decision step, interrupt pending: the one way such a cell is written. -/
theorem test_witness_InterruptPendingDecisionCells : (exampleParams [⟨14, 0, 1, 3, .only 1, 0x5A5A⟩] []).meetsConstraints ∧
    (1 ≤ 1 ∧ 1 ≤ 7 ∧ 0 ≤ 7 ∧ 2 < 3) ∧
    lanesAfter (example_ [⟨14, 0, 1, 3, .only 1, 0x5A5A⟩] []) .expandTable 0xE131 = some [some 0x5A, some 0x5A, some 0] :=
  ⟨exampleParams_meets (fun e h => by
      simp only [List.mem_cons, List.not_mem_nil, or_false] at h
      subst h
      exact ⟨by decide, by decide, by decide, by decide, fun n hn => by cases hn; decide, by decide⟩)
    (fun _ h => nomatch h), by decide, by decide⟩

theorem test_witness_AddressFieldRowsReadTheirBits : 65535 ≤ 65535 ∧ 65535 < 65536 := by decide

theorem test_witness_FormatRowsTellWhichFormatApplies : 65535 ≤ 65535 ∧ 65535 < 65536 := by decide

theorem test_witness_ConditionBitRowsReadTheNibble : 65535 ≤ 65535 ∧ 65535 < 65536 := by decide

theorem test_witness_SelectorRowsNameTheTestedFlags : 65535 ≤ 65535 ∧ 65535 < 65536 := by decide

theorem test_witness_ControlFieldRowsReadTheLayout : 2 ^ 32 - 1 < 2 ^ 32 ∧ 2 ^ 32 ≤ 2 ^ 32 := by decide

theorem test_witness_AluRowsAndFormatRowReadTheWord : (2 ^ 32 - 1 < 2 ^ 32 ∧ sample.params.cwl.laneOf .sequencer < 3 ∧
    sample.params.cwl.laneOf .datapath < 3 ∧ sample.params.cwl.laneOf .control < 3) ∧ 2 ^ 32 ≤ 2 ^ 32 := by decide

theorem test_witness_PureCallsTouchOnlyTheResult : pureCall (.encode 16 2 2 16 16) = true ∧ pureCall (.aluAnd 7) = true := by
  decide

theorem test_witness_DiagOnlyGrows : Instr.emit 0x3020 0x088216 ≠ .generate ∧
    (nextOf (exec (.emit 0x3020 0x088216) sampleRejecting)).map (·.diag) = some [⟨0x3020, 1⟩] := by decide

theorem test_witness_WrittenCellsStayWritten : Instr.lookup 0x3020 ≠ .generate ∧ finishedExample.cell 2 0x3020 ≠ none ∧
    storingCall (.lookup 0x3020) = false ∧ (nextOf (exec (.lookup 0x3020) finishedExample)).isSome = true := by decide

theorem test_witness_OnlyGenerateStartsOrEndsARun : Instr.validate ≠ .generate ∧
    (nextOf (exec .validate finishedExample)).isSome = true := by decide +kernel

/-- A step that answers a next state, from a state that meets the invariant (an example of the two statements about step). -/
theorem test_witness_StepKeepsTheInvariant : sample.Inv ∧ (nextOf (step (sample.withFetchWord 16 0x0534))).isSome = true :=
  ⟨⟨by decide, (by decide : ∀ r ∈ [], WriteTargetFailure.inRange r = true), by decide,
    fun h => absurd h (by decide)⟩, by decide⟩

theorem test_witness_StepNeverWritesParameters : (nextOf (step (sample.withFetchWord 16 0x0534))).isSome = true ∧
    (nextOf (stepWith sampleRejecting.params (sample.withFetchWord 16 0x0534))).isSome = true := by decide

theorem test_witness_DecodeInvertsEncode : (Instr.encode (2 ^ 64 - 1) 0 0 0 0).wellFormed = true := by decide

/-- A frame that is a call, a frame that is none, and no call pending. -/
theorem test_witness_StepRunsTheDecodedCall : (sample.withFetchWord 16 0x0534).calls = tableFrame 16 0x0534 :: [] ∧
    decode (tableFrame 16 0x0534) = .ok .jdecI5J2 ∧ decode [] = .error .empty ∧ sample.calls = [] :=
  ⟨rfl, rfl, rfl, rfl⟩

end Sys2Proof.Tests
end

/-! The four calls of the address codec, ENCODE, DECODE, ENCODEJ and DECODEJ: what each answers on every operand
(40_address_codec.md R60 to R63). -/

namespace Sys2Proof.Machine

/-! ## What a codec call answers -/

theorem exec_encode (opc am pf step cond : Nat) (s : State) :
    exec (.encode opc am pf step cond) s = answer s ((encodeAddress opc am pf step cond).map Result.address) := rfl

theorem exec_decode (a : Nat) (s : State) : exec (.decode a) s = answer s ((decodeAddress a).map Result.general) := rfl

theorem exec_encodej (taddr sel cond : Nat) (s : State) :
    exec (.encodej taddr sel cond) s = answer s ((encodeJump taddr sel cond).map Result.address) := rfl

theorem exec_decodej (a : Nat) (s : State) : exec (.decodej a) s = answer s ((decodeJump a).map Result.jump) := rfl

/-- A value is returned in the result, and nothing else of the state changes. -/
theorem answer_map_ok {α : Type} (s : State) (wrap : α → Result) (v : α) :
    answer s ((Except.ok v).map wrap) = .next { s with result := wrap v } := rfl

/-- A fault is returned in place of the value, and nothing else of the state changes (60_exceptions.md R118). -/
theorem answer_map_error {α : Type} (s : State) (wrap : α → Result) (o : OperandName) (v : Nat) :
    answer s ((Except.error (overlap o v)).map wrap) =
      .next { s with result := .fault (.fieldOverlap (.operand o) (.num v)) } := rfl

/-! ## The operand checks that Laws/Codec.lean does not state -/

/-- DECODE rejects a number that is no 16-bit address (R61). -/
theorem decodeAddress_bad {a : Nat} (h : 65535 < a) : decodeAddress a = .error (overlap .address a) := by
  rw [decodeAddress, if_pos h]

/-- DECODEJ rejects a number that is no 16-bit address (R63). -/
theorem decodeJump_bad {a : Nat} (h : 65535 < a) : decodeJump a = .error (overlap .address a) := by
  rw [decodeJump, if_pos h]

/-- ENCODEJ checks the selector once the template-step address has passed (R62). -/
theorem encodeJump_bad_sel {taddr sel : Nat} (cond : Nat) (h : taddr ≤ 65535) (h1 : taddr / 256 % 8 = 0)
    (h2 : taddr % 16 = 0) (hs : 7 < sel) : encodeJump taddr sel cond = .error (overlap .sel sel) := by
  simp only [encodeJump, slice_eq]
  rw [if_neg (by omega), if_neg (by simp only [ne_eq, not_or, not_not]; omega), if_pos hs]

/-- ENCODEJ checks the condition nibble last (R62). -/
theorem encodeJump_bad_cond {taddr sel cond : Nat} (h : taddr ≤ 65535) (h1 : taddr / 256 % 8 = 0)
    (h2 : taddr % 16 = 0) (hs : sel ≤ 7) (hc : 15 < cond) :
    encodeJump taddr sel cond = .error (overlap .cond cond) := by
  simp only [encodeJump, slice_eq]
  rw [if_neg (by omega), if_neg (by simp only [ne_eq, not_or, not_not]; omega), if_neg (by omega), if_pos hc]

/-! ## The three terms of ENCODEJ share no bit -/

/-- A legal template-step address is free in bits 10:8, so the selector is added without a carry. Its bits 15:11 lie
above the selector and its step field below, so the address is cut there. -/
theorem add_sel_eq_or {taddr sel : Nat} (h1 : taddr / 256 % 8 = 0) (hs : sel ≤ 7) :
    taddr + sel * 256 = taddr ||| (sel <<< 8) := by
  have high : ∀ b < 2 ^ 11, 2 ^ 11 * (taddr / 2048) + b = 2 ^ 11 * (taddr / 2048) ||| b :=
    fun b hb => Nat.two_pow_add_eq_or_of_lt hb _
  have low : 2 ^ 8 * sel + taddr % 256 = 2 ^ 8 * sel ||| taddr % 256 := Nat.two_pow_add_eq_or_of_lt (by omega) _
  have cut : taddr = 2 ^ 11 * (taddr / 2048) + taddr % 256 := by omega
  calc taddr + sel * 256
      = 2 ^ 11 * (taddr / 2048) + (2 ^ 8 * sel + taddr % 256) := by omega
    _ = 2 ^ 11 * (taddr / 2048) ||| (taddr % 256 ||| 2 ^ 8 * sel) := by
        rw [high _ (by omega), low, Nat.or_comm (2 ^ 8 * sel)]
    _ = (2 ^ 11 * (taddr / 2048) + taddr % 256) ||| 2 ^ 8 * sel := by rw [← Nat.or_assoc, high _ (by omega)]
    _ = taddr ||| (sel <<< 8) := by rw [← cut, Nat.shiftLeft_eq, Nat.mul_comm]

/-- The sum of ENCODEJ is the bitwise OR of its three terms (R62). -/
theorem jumpSum_eq_or {taddr sel cond : Nat} (h1 : taddr / 256 % 8 = 0) (h2 : taddr % 16 = 0) (hs : sel ≤ 7)
    (hc : cond ≤ 15) : taddr + sel * 256 + cond = taddr ||| (sel <<< 8) ||| cond := by
  have nibbleFree : taddr + sel * 256 = 2 ^ 4 * ((taddr + sel * 256) / 16) := by omega
  rw [← add_sel_eq_or h1 hs, nibbleFree]
  exact Nat.two_pow_add_eq_or_of_lt (by omega) _

/-- The sum of ENCODEJ is a 16-bit address (R62): the largest template-step address is 0xF8F0. -/
theorem jumpSum_lt {taddr sel cond : Nat} (h : taddr ≤ 65535) (h1 : taddr / 256 % 8 = 0) (h2 : taddr % 16 = 0)
    (hs : sel ≤ 7) (hc : cond ≤ 15) : taddr + sel * 256 + cond < 65536 := by
  omega

/-! ## The jump view by division -/

/-- A bit vector as wide as a slice does not see the bits above it. -/
theorem ofNat_slice (v hi lo : Nat) :
    BitVec.ofNat (hi - lo + 1) (slice v hi lo) = BitVec.ofNat (hi - lo + 1) (v / 2 ^ lo) :=
  BitVec.eq_of_toNat_eq (by simp [slice_eq])

/-- The jump fields of a 16-bit address by division. -/
theorem jumpFields_eq {a : Nat} (h : a ≤ 65535) :
    jumpFields a =
      { taddr := a / 2048 * 2048 + a / 16 % 16 * 16, sel := ⟨BitVec.ofNat 3 (a / 256)⟩, step := a / 16 % 16,
        cond := a % 16, flagpat := ⟨BitVec.ofNat 3 (a / 2)⟩, irq := a % 2 } := by
  have sel : JumpSelector.ofNat (slice a 10 8) = ⟨BitVec.ofNat 3 (a / 256)⟩ :=
    congrArg JumpSelector.mk (ofNat_slice a 10 8)
  have pattern : FlagPattern.ofNat (slice a 3 1) = ⟨BitVec.ofNat 3 (a / 2)⟩ :=
    congrArg FlagPattern.mk (ofNat_slice a 3 1)
  rw [jumpFields, and_F8F0 (by omega), sel, pattern]
  simp [slice_eq]

/-! ## The statements -/

/-- Settles O3: the checks of R62 in the written order, each case one fact about `encodeJump`. -/
theorem encodejReturnsSumOrFirstFault : Obligations.EncodejReturnsSumOrFirstFault := by
  unfold Obligations.EncodejReturnsSumOrFirstFault
  intro taddr sel cond s
  refine ⟨?_, fun h h1 h2 hs hc => ⟨jumpSum_eq_or h1 h2 hs hc, jumpSum_lt h h1 h2 hs hc⟩⟩
  rw [exec_encodej]
  split_ifs with hbad hs hc
  · rw [encodeJump_bad_taddr sel cond hbad, answer_map_error]
  all_goals
    simp only [ne_eq, not_or, not_not, not_lt] at hbad
    obtain ⟨h, h1, h2⟩ := hbad
  · rw [encodeJump_bad_sel cond h h1 h2 hs, answer_map_error]
  · rw [encodeJump_bad_cond h h1 h2 (by omega) hc, answer_map_error]
  · rw [encodeJump_ok h h1 h2 (by omega) (by omega), answer_map_ok]

/-- Settles O4: a 16-bit address is read by `jumpFields_eq`, and any other number is rejected (R63). -/
theorem decodejReturnsJumpFields : Obligations.DecodejReturnsJumpFields := by
  unfold Obligations.DecodejReturnsJumpFields
  intro a s
  rw [exec_decodej]
  split_ifs with h
  · rw [decodeJump_ok h, answer_map_ok, jumpFields_eq h]
  · rw [decodeJump_bad (by omega), answer_map_error]

/-- Settles O1: one case per check of R60, in the written order. -/
theorem encodeReturnsSumOrFirstFault : Obligations.EncodeReturnsSumOrFirstFault := by
  unfold Obligations.EncodeReturnsSumOrFirstFault
  intro opc am pf step cond s
  rw [exec_encode]
  split_ifs with ho hm hp hs hc
  · rw [encodeAddress, if_pos ho, answer_map_error]
  · rw [encodeAddress, if_neg ho, if_pos hm, answer_map_error]
  · rw [encodeAddress, if_neg ho, if_neg hm, if_pos hp, answer_map_error]
  · rw [encodeAddress, if_neg ho, if_neg hm, if_neg hp, if_pos hs, answer_map_error]
  · rw [encodeAddress, if_neg ho, if_neg hm, if_neg hp, if_neg hs, if_pos hc, answer_map_error]
  · rw [encodeAddress_ok (by omega) (by omega) (by omega) (by omega) (by omega), answer_map_ok]

/-- Settles O2: a 16-bit address is read by `generalFields_eq`, and any other number is rejected (R61). -/
theorem decodeReturnsFieldsAsFound : Obligations.DecodeReturnsFieldsAsFound := by
  unfold Obligations.DecodeReturnsFieldsAsFound
  intro a s
  rw [exec_decode]
  split_ifs with h
  · have hopc : a / 4096 % 16 = a / 4096 := Nat.mod_eq_of_lt (by omega)
    rw [decodeAddress_ok h, answer_map_ok, generalFields_eq h, hopc]
  · rw [decodeAddress_bad (by omega), answer_map_error]

end Sys2Proof.Machine

/-! The control-word codec: LANEBYTE and LANEJOIN on every operand, and the round trips of the lanes and of the named
signals (41_control_word_codec.md R70 to R75). -/

namespace Sys2Proof

/-! ## Records -/

/-- A record is its nineteen components. -/
theorem CwRecord.build_get (r : CwRecord) : CwRecord.build r.get = r := rfl

theorem CwRecord.ext_get {r t : CwRecord} (h : ∀ f, r.get f = t.get f) : r = t := by
  rw [← r.build_get, ← t.build_get, funext h]

/-! ## The row order -/

theorem mem_rowOrder (f : CwField) : f ∈ rowOrder := by cases f <;> decide

theorem rowOrder_nodup : rowOrder.Nodup := by decide

/-- Of two different members of a list, one comes before the other. -/
theorem mem_takeWhile_or {α : Type} [DecidableEq α] {a b : α} (hab : a ≠ b) :
    ∀ {l : List α}, a ∈ l → b ∈ l → a ∈ l.takeWhile (· != b) ∨ b ∈ l.takeWhile (· != a)
  | c :: l, ha, hb => by
    by_cases hca : c = a
    · subst hca
      exact .inl (by simp [hab])
    · by_cases hcb : c = b
      · subst hcb
        exact .inr (by simp [hca])
      · have ih := mem_takeWhile_or hab ((List.mem_cons.mp ha).resolve_left (Ne.symm hca))
          ((List.mem_cons.mp hb).resolve_left (Ne.symm hcb))
        simpa [hca, hcb, Ne.symm hca, Ne.symm hcb] using ih

/-- Of two different fields, one comes before the other in row order. -/
theorem mem_before_or {f g : CwField} (h : f ≠ g) : f ∈ g.before ∨ g ∈ f.before :=
  mem_takeWhile_or h (mem_rowOrder f) (mem_rowOrder g)

/-! ## The word bits of the fields under a valid layout (30_encoding.md R47) -/

/-- The word bits a layout gives a field. -/
def Layout.bits (L : Layout) (f : CwField) : Finset Nat := Finset.Ico (L.lo f) (L.lo f + f.width)

theorem Layout.mem_bits {L : Layout} {f : CwField} {k : Nat} :
    k ∈ L.bits f ↔ L.lo f ≤ k ∧ k < L.lo f + f.width := Finset.mem_Ico

/-- A layout is valid when no field offends. -/
theorem Layout.valid_iff (L : Layout) : L.valid = true ↔ ∀ f, L.offends f = false := by
  simp [Layout.valid, Layout.firstOffender, mem_rowOrder]

section

variable {L : Layout} (h : L.valid = true)

include h

/-- A field of a valid layout lies in one of the three lanes. -/
theorem Layout.valid_bounds (f : CwField) : (L.pos f).lane < 3 ∧ (L.pos f).lo + f.width ≤ 8 := by
  have := L.valid_iff.mp h f
  simp only [Layout.offends, Bool.or_eq_false_iff, decide_eq_false_iff_not] at this
  obtain ⟨⟨⟨⟨⟨hlane, hbits⟩, -⟩, -⟩, -⟩, -⟩ := this
  exact ⟨Nat.lt_of_not_le hlane, Nat.le_of_not_lt hbits⟩

/-- Two fields of a valid layout share no bit of a lane: the later one in row order would offend. -/
theorem Layout.valid_no_overlap {f g : CwField} (hfg : f ∈ g.before) : L.overlap g f = false := by
  have := L.valid_iff.mp h g
  simp only [Layout.offends, Bool.or_eq_false_iff, List.any_eq_false] at this
  obtain ⟨-, earlier⟩ := this
  exact Bool.eq_false_of_not_eq_true (earlier f hfg)

/-- Two fields of a valid layout share no bit of the word: they share none within a lane, and a lane is eight bits. -/
theorem Layout.valid_disjoint {f g : CwField} (hfg : f ≠ g) : Disjoint (L.bits f) (L.bits g) := by
  have apart : L.overlap f g = false ∨ L.overlap g f = false :=
    (mem_before_or hfg).symm.imp (L.valid_no_overlap h) (L.valid_no_overlap h)
  have hf := L.valid_bounds h f
  have hg := L.valid_bounds h g
  refine Finset.disjoint_left.mpr fun k hkf hkg => ?_
  simp only [Layout.overlap, Bool.and_eq_false_iff, beq_eq_false_iff_ne, decide_eq_false_iff_not, Layout.mem_bits,
    Layout.lo] at apart hkf hkg
  omega

theorem Layout.valid_pairwise : rowOrder.Pairwise fun f g => Disjoint (L.bits f) (L.bits g) :=
  rowOrder_nodup.pairwise_of_forall_ne fun _ _ _ _ hfg => L.valid_disjoint h hfg

/-- The nineteen fields of a valid layout take every bit of the word: they share none, and their widths add up
to 24. -/
theorem Layout.valid_cover : rowOrder.toFinset.biUnion L.bits = Finset.range 24 := by
  refine Finset.eq_of_subset_of_card_le (fun k hk => ?_) ?_
  · obtain ⟨f, -, hkf⟩ := Finset.mem_biUnion.mp hk
    have := L.valid_bounds h f
    rw [Layout.mem_bits, Layout.lo] at hkf
    exact Finset.mem_range.mpr (by omega)
  · rw [Finset.card_biUnion fun f _ g _ hfg => L.valid_disjoint h hfg]
    simp only [Layout.bits, Nat.card_Ico, Nat.add_sub_cancel_left, Finset.card_range]
    decide

/-- A bit of the word belongs to a field exactly when it is one of the 24. -/
theorem Layout.valid_exists_field_iff (k : Nat) : (∃ f, k ∈ L.bits f) ↔ k < 24 := by
  rw [← Finset.mem_range, ← L.valid_cover h]
  simp [mem_rowOrder]

end

/-! ## The sum of CWPACK -/

/-- The sum of CWPACK over a list of fields: each component at the lowest word bit of its field (R73). -/
def Layout.packSum (L : Layout) (r : CwRecord) (fs : List CwField) : Nat :=
  (fs.map fun f => r.get f * 2 ^ L.lo f).sum

/-- Numbers without a common bit add without a carry. -/
theorem add_eq_or_of_and_eq_zero {x y : Nat} (h : x &&& y = 0) : x + y = x ||| y := by
  have fits : x + y < 2 ^ (x + y) := Nat.lt_two_pow_self
  have sum : BitVec.ofNat (x + y) x + BitVec.ofNat (x + y) y = BitVec.ofNat (x + y) x ||| BitVec.ofNat (x + y) y :=
    BitVec.add_eq_or_of_and_eq_zero _ _ (by rw [← BitVec.ofNat_and, h])
  rw [← BitVec.ofNat_add, ← BitVec.ofNat_or] at sum
  have := congrArg BitVec.toNat sum
  rwa [BitVec.toNat_ofNat, BitVec.toNat_ofNat, Nat.mod_eq_of_lt fits, Nat.mod_eq_of_lt] at this
  exact Nat.or_lt_two_pow (by omega) (by omega)

end Sys2Proof

namespace Sys2Proof.Machine

/-! ## What a lane call answers -/

theorem exec_lanebyte (w c : Nat) (s : State) :
    exec (.lanebyte w c) s = answer s ((laneByte w c).map Result.laneByte) := rfl

theorem exec_lanejoin (b0 b1 b2 : Nat) (s : State) :
    exec (.lanejoin b0 b1 b2) s = answer s ((laneJoin b0 b1 b2).map Result.word) := rfl

/-! ## CWPACK and CWUNPACK of legal operands -/

/-- The loop of CWPACK adds the remaining components of a legal record to the sum so far. -/
theorem packFields_ok (L : Layout) {r : CwRecord} (hr : legalRecord r) (fs : List CwField) (w : Nat) :
    packFields L r fs w = .ok (w + L.packSum r fs) := by
  induction fs generalizing w with
  | nil => rfl
  | cons f fs ih =>
    rw [packFields, if_pos (hr f), ih, Nat.shiftLeft_eq]
    simp only [Layout.packSum, List.map_cons, List.sum_cons, Nat.add_assoc]

theorem packWord_ok (L : Layout) {r : CwRecord} (hr : legalRecord r) : packWord L r = .ok (L.packSum r rowOrder) := by
  rw [packWord, packFields_ok L hr, Nat.zero_add]

/-- What CWUNPACK reads from a word is a legal record. -/
theorem wordSignals_legal (L : Layout) (w : Nat) : legalRecord (wordSignals L w) := fun f => by
  rw [wordSignals_get]
  exact Nat.mod_lt _ (Nat.two_pow_pos _)

/-! ## The bits of the sum -/

/-- A component of a legal record has no bit outside its field's width. -/
theorem testBit_get_of_width_le {r : CwRecord} (hr : legalRecord r) {f : CwField} {i : Nat} (hi : f.width ≤ i) :
    (r.get f).testBit i = false :=
  Nat.testBit_lt_two_pow ((hr f).trans_le (Nat.pow_le_pow_right (by decide) hi))

/-- The term of a field in the sum of CWPACK has its bits among the word bits of the field. -/
theorem mem_bits_of_testBit_term {L : Layout} {r : CwRecord} (hr : legalRecord r) {f : CwField} {k : Nat}
    (hk : (r.get f * 2 ^ L.lo f).testBit k = true) : k ∈ L.bits f := by
  rw [Nat.testBit_mul_two_pow, Bool.and_eq_true, decide_eq_true_eq] at hk
  obtain ⟨hlo, hbit⟩ := hk
  have : k - L.lo f < f.width := by
    by_contra hge
    rw [testBit_get_of_width_le hr (Nat.le_of_not_lt hge)] at hbit
    exact Bool.false_ne_true hbit
  exact Layout.mem_bits.mpr (by omega)

/-- Where fields share no bit, CWPACK adds without a carry: a bit of the sum is a bit of one of its terms. -/
theorem testBit_packSum_iff {L : Layout} {r : CwRecord} (hr : legalRecord r) {fs : List CwField}
    (hd : fs.Pairwise fun f g => Disjoint (L.bits f) (L.bits g)) (k : Nat) :
    (L.packSum r fs).testBit k = true ↔ ∃ f ∈ fs, (r.get f * 2 ^ L.lo f).testBit k = true := by
  induction fs generalizing k with
  | nil => simp [Layout.packSum]
  | cons f fs ih =>
    obtain ⟨hf, hfs⟩ := List.pairwise_cons.mp hd
    have noCarry : r.get f * 2 ^ L.lo f &&& L.packSum r fs = 0 := by
      refine Nat.eq_of_testBit_eq fun i => ?_
      rw [Nat.testBit_and, Nat.zero_testBit, Bool.and_eq_false_iff, ← Bool.not_eq_true, ← Bool.not_eq_true,
        ← not_and_or, ih hfs]
      rintro ⟨hi, g, hg, hgi⟩
      exact Finset.disjoint_left.mp (hf g hg) (mem_bits_of_testBit_term hr hi) (mem_bits_of_testBit_term hr hgi)
    have split : L.packSum r (f :: fs) = r.get f * 2 ^ L.lo f ||| L.packSum r fs := by
      rw [← add_eq_or_of_and_eq_zero noCarry]
      rfl
    rw [split, Nat.testBit_or, Bool.or_eq_true, ih hfs]
    simp

/-- Under a valid layout, bit k of the word that CWPACK makes, where k is one of the bits of field f, is that field's
bit: no other term reaches it. -/
theorem testBit_packSum_of_mem_bits {L : Layout} (h : L.valid = true) {r : CwRecord} (hr : legalRecord r) {f : CwField}
    {k : Nat} (hk : k ∈ L.bits f) : (L.packSum r rowOrder).testBit k = (r.get f).testBit (k - L.lo f) := by
  have term : (r.get f * 2 ^ L.lo f).testBit k = (r.get f).testBit (k - L.lo f) := by
    simp [Nat.testBit_mul_two_pow, (Layout.mem_bits.mp hk).1]
  rw [← term, Bool.eq_iff_iff, testBit_packSum_iff hr (L.valid_pairwise h)]
  refine ⟨fun ⟨g, _, hg⟩ => ?_, fun hf => ⟨f, mem_rowOrder f, hf⟩⟩
  have same : f = g := by
    by_contra hfg
    exact Finset.disjoint_left.mp (L.valid_disjoint h hfg) hk (mem_bits_of_testBit_term hr hg)
  exact same ▸ hg

/-- Under a valid layout the word that CWPACK makes has 24 bits. -/
theorem packSum_lt {L : Layout} (h : L.valid = true) {r : CwRecord} (hr : legalRecord r) :
    L.packSum r rowOrder < 2 ^ 24 := by
  refine Nat.lt_pow_two_of_testBit _ fun k hk => Bool.eq_false_of_not_eq_true fun hbit => ?_
  obtain ⟨f, -, hf⟩ := (testBit_packSum_iff hr (L.valid_pairwise h) k).mp hbit
  have := (L.valid_exists_field_iff h k).mp ⟨f, mem_bits_of_testBit_term hr hf⟩
  omega

/-! ## The round trip of the signals (R75) -/

/-- CWUNPACK reads a legal record back from the word CWPACK makes of it. -/
theorem wordSignals_packSum {L : Layout} (h : L.valid = true) {r : CwRecord} (hr : legalRecord r) :
    wordSignals L (L.packSum r rowOrder) = r := by
  refine CwRecord.ext_get fun f => Nat.eq_of_testBit_eq fun i => ?_
  rw [wordSignals_get, Nat.testBit_mod_two_pow, Nat.testBit_div_two_pow]
  by_cases hi : i < f.width
  · have inField : i + L.lo f ∈ L.bits f := Layout.mem_bits.mpr (by omega)
    rw [testBit_packSum_of_mem_bits h hr inField, Nat.add_sub_cancel, decide_eq_true hi, Bool.true_and]
  · rw [decide_eq_false hi, Bool.false_and, testBit_get_of_width_le hr (Nat.le_of_not_lt hi)]

/-- CWPACK makes the low 24 bits of a word again from its fields: each bit belongs to a field. -/
theorem packSum_wordSignals {L : Layout} (h : L.valid = true) (w : Nat) :
    L.packSum (wordSignals L w) rowOrder = w % 2 ^ 24 := by
  have hr := wordSignals_legal L w
  refine Nat.eq_of_testBit_eq fun k => ?_
  rw [Nat.testBit_mod_two_pow]
  by_cases hk : k < 24
  · obtain ⟨f, hf⟩ := (L.valid_exists_field_iff h k).mpr hk
    obtain ⟨hlo, hhi⟩ := Layout.mem_bits.mp hf
    rw [testBit_packSum_of_mem_bits h hr hf, wordSignals_get, Nat.testBit_mod_two_pow, Nat.testBit_div_two_pow,
      Nat.sub_add_cancel hlo, decide_eq_true hk, decide_eq_true (by omega : k - L.lo f < f.width)]
  · have small : L.packSum (wordSignals L w) rowOrder < 2 ^ k :=
      (packSum_lt h hr).trans_le (Nat.pow_le_pow_right (by decide) (by omega))
    rw [Nat.testBit_lt_two_pow small, decide_eq_false hk, Bool.false_and]

/-! ## The statements -/

/-- Settles O13: the fields of a valid layout partition the 24 bits, so packing and unpacking are inverse bit by
bit. -/
theorem signalRoundTripUnderEveryLayout : Obligations.SignalRoundTripUnderEveryLayout := by
  unfold Obligations.SignalRoundTripUnderEveryLayout
  refine fun L h => ⟨fun r hr => ⟨L.packSum r rowOrder, packWord_ok L hr, ?_⟩,
    fun w hw => ⟨wordSignals L w, unpackWord_ok L hw, ?_⟩⟩
  · have container := packSum_lt h hr
    rw [unpackWord_ok L (by omega), wordSignals_packSum h hr]
  · rw [packWord_ok L (wordSignals_legal L w), packSum_wordSignals h]

/-- Settles O9: LANEJOIN adds three bytes, and rejects the triple when one of them is no byte (R71). -/
theorem lanejoinReturnsWord : Obligations.LanejoinReturnsWord := by
  unfold Obligations.LanejoinReturnsWord
  intro b0 b1 b2 s
  refine ⟨fun h0 h1 h2 => ⟨by omega, ?_⟩, fun hbad => ?_⟩
  · rw [exec_lanejoin, laneJoin_ok h0 h1 h2, answer_map_ok]
  · rw [exec_lanejoin, laneJoin_bad hbad]
    rfl

/-- Settles O10: the lanes of a container are the base-256 digits of its low 24 bits (R72). -/
theorem laneReconstruction : Obligations.LaneReconstruction := by
  unfold Obligations.LaneReconstruction
  constructor
  · intro w hw
    have join : laneJoin (w / 2 ^ (8 * 0) % 256) (w / 2 ^ (8 * 1) % 256) (w / 2 ^ (8 * 2) % 256) =
        .ok (w % 2 ^ 24) := by
      rw [laneJoin_ok (by omega) (by omega) (by omega)]
      congr 1
      omega
    refine ⟨_, _, _, laneByte_ok hw (by decide), laneByte_ok hw (by decide), laneByte_ok hw (by decide), join,
      fun hw24 => ?_⟩
    rwa [Nat.mod_eq_of_lt hw24] at join
  · intro b0 b1 b2 h0 h1 h2
    have hw : b0 + 256 * b1 + 65536 * b2 < 2 ^ 32 := by omega
    have lane : ∀ c b, c < Config.chips → (b0 + 256 * b1 + 65536 * b2) / 2 ^ (8 * c) % 256 = b →
        laneByte (b0 + 256 * b1 + 65536 * b2) c = .ok b := fun c b hc hb => hb ▸ laneByte_ok hw hc
    exact ⟨_, laneJoin_ok h0 h1 h2, lane 0 b0 (by decide) (by omega), lane 1 b1 (by decide) (by omega),
      lane 2 b2 (by decide) (by omega)⟩

/-- Settles O8: the two checks of R70 in the written order, then the lane. -/
theorem lanebyteReturnsLane : Obligations.LanebyteReturnsLane := by
  unfold Obligations.LanebyteReturnsLane
  intro w c s
  rw [exec_lanebyte]
  split_ifs with hw hc
  · rw [laneByte_bad_word c hw, answer_map_error]
  · rw [laneByte_bad_lane (by omega) hc, answer_map_error]
  · rw [laneByte_ok (by omega) (Nat.lt_of_not_le hc), answer_map_ok]

end Sys2Proof.Machine

/-! EXPAND.FIXED on every operand: one EMIT at the address ENCODE gives, or ENCODE's fault (42_table_expansion.md R81). -/

namespace Sys2Proof.Machine

/-! ## What a placing call answers -/

theorem exec_emit (a w : Nat) (s : State) : exec (.emit a w) s = settle s (emit s.params a w s.toBlock) := rfl

theorem exec_expandFixed (opc am pf step n cw : Nat) (s : State) :
    exec (.expandFixed opc am pf step n cw) s = settle s (emitEncoded s.params opc am pf step cw n s.toBlock) := rfl

/-- A fault raised before any placement is returned, and nothing else of the state changes (60_exceptions.md R118). -/
theorem settle_raised_unchanged (s : State) (f : SpecFault) : settle s (s.toBlock, .raised f) = .next (s.takeFault f) := rfl

/-! ## EMIT at an encoded address -/

/-- With an operand out of range ENCODE raises: an address it answers has every operand in range (40_address_codec.md R60). -/
theorem encodeAddress_bad {opc am pf step cond : Nat}
    (h : 15 < opc ∨ 1 < am ∨ 1 < pf ∨ 15 < step ∨ 15 < cond) :
    ∃ f, encodeAddress opc am pf step cond = .error f := by
  cases hr : encodeAddress opc am pf step cond with
  | error f => exact ⟨f, rfl⟩
  | ok a =>
    have inRange := (encodeAddress_eq_ok hr).1
    omega

theorem emitEncoded_of_ok {opc am pf step n a : Nat} (h : encodeAddress opc am pf step n = .ok a) (p : Params) (cw : Nat)
    (b : Block) : emitEncoded p opc am pf step cw n b = emit p a cw b := by
  rw [emitEncoded, h]

theorem emitEncoded_of_error {opc am pf step n : Nat} {f : SpecFault} (h : encodeAddress opc am pf step n = .error f)
    (p : Params) (cw : Nat) (b : Block) : emitEncoded p opc am pf step cw n b = (b, .raised f) := by
  rw [emitEncoded, h]

/-! ## The statement -/

/-- Settles O22: ENCODE answers the address of the one EMIT, which completes there, or raises the fault that both calls
return. -/
theorem expandFixedEmitsOnce : Obligations.ExpandFixedEmitsOnce := by
  unfold Obligations.ExpandFixedEmitsOnce
  refine fun opc am pf step n cw s => ⟨fun ho hm hp hs hn hw => ?_, fun hbad => ?_⟩
  · have encoded := encodeAddress_ok ho hm hp hs hn
    have sameEmit : exec (.expandFixed opc am pf step n cw) s =
        exec (.emit (opc * 4096 + am * 2048 + pf * 256 + step * 16 + n) cw) s := by
      rw [exec_expandFixed, emitEncoded_of_ok encoded, exec_emit]
    have emits := settle_completed s (emit_completed s.params (encodeAddress_lt encoded) hw s.toBlock)
    rw [← exec_emit] at emits
    exact ⟨_, sameEmit.trans emits, rfl, emits⟩
  · obtain ⟨f, raised⟩ := encodeAddress_bad hbad
    refine ⟨f, ?_, ?_⟩
    · rw [exec_encode, raised]
      rfl
    · rw [exec_expandFixed, emitEncoded_of_error raised, settle_raised_unchanged]

end Sys2Proof.Machine

/-! GENERATE and LOOKUP (44_generate_and_lookup.md R100 to R107). Every pass on parameters that VALIDATE passes is one list of
EMITs, so GENERATE is one loop over their concatenation. The loop ends on any medium, and on an accepting one each address
holds the word of its last EMIT, which is what RESOLVE reads off the parameters. -/

namespace Sys2Proof.Machine

/-! ## Nested loops are one loop -/

section Loops

variable {α β γ : Type}

theorem andThen_then_nothing (r : Block × Ending) : andThen r (fun b => (b, .completed)) = r := by
  obtain ⟨b, _ | _ | _⟩ := r <;> rfl

theorem andThen_of_completed {r : Block × Ending} (h : r.2 = .completed) (next : Block → Block × Ending) :
    andThen r next = next r.1 := by
  obtain ⟨b, e⟩ := r
  subst h
  rfl

theorem forEach_singleton (body : α → Block → Block × Ending) (x : α) (b : Block) : forEach body [x] b = body x b :=
  andThen_then_nothing (body x b)

/-- A loop whose every element reads and then runs an inner loop over a list of its own is the inner loop over those lists
one after the other. -/
theorem forEach_eq_filterMap_flatMap {read : α → Option β} {body : α → Block → Block × Ending}
    {inner : γ → Block → Block × Ending} {run : β → List γ} {xs : List α}
    (h : ∀ x ∈ xs, ∃ y, read x = some y ∧ ∀ b, body x b = forEach inner (run y) b) (b : Block) :
    forEach body xs b = forEach inner ((xs.filterMap read).flatMap run) b := by
  induction xs generalizing b with
  | nil => rfl
  | cons x xs ih =>
    obtain ⟨y, hy, hx⟩ := h x (List.mem_cons_self ..)
    rw [List.filterMap_cons_some hy, List.flatMap_cons, forEach_append, forEach_cons, hx]
    congr 1
    funext t
    exact ih (fun z hz => h z (List.mem_cons_of_mem _ hz)) t

/-- The case of a loop whose elements need no reading. -/
theorem forEach_eq_flatMap {body : α → Block → Block × Ending} {inner : γ → Block → Block × Ending} {run : α → List γ}
    {xs : List α} (h : ∀ x ∈ xs, ∀ b, body x b = forEach inner (run x) b) (b : Block) :
    forEach body xs b = forEach inner (xs.flatMap run) b := by
  have := forEach_eq_filterMap_flatMap (read := some) (fun x hx => ⟨x, rfl, h x hx⟩) b
  rwa [List.filterMap_some] at this

/-- The case of a loop whose elements each are one step of the inner loop. -/
theorem forEach_eq_map {body : α → Block → Block × Ending} {inner : γ → Block → Block × Ending} {run : α → γ}
    {xs : List α} (h : ∀ x ∈ xs, ∀ b, body x b = inner (run x) b) (b : Block) :
    forEach body xs b = forEach inner (xs.map run) b := by
  rw [List.map_eq_flatMap]
  exact forEach_eq_flatMap (fun x hx t => (h x hx t).trans (forEach_singleton inner (run x) t).symm) b

end Loops

/-! ## Lists of EMITs -/

/-- One EMIT after the other, each given by its address and its word. -/
def emitAll (p : Params) (es : List (Nat × Nat)) (b : Block) : Block × Ending := forEach (fun e => emit p e.1 e.2) es b

/-- The word of the last EMIT of a list at an address. -/
def lastEmitted (es : List (Nat × Nat)) (a : Nat) : Option Nat := ((es.filter fun e => e.1 == a).getLast?).map (·.2)

/-- Every EMIT of a list goes to one of the 65536 addresses with a word of 24 bits. -/
def EmitsInRange (es : List (Nat × Nat)) : Prop := ∀ e ∈ es, e.1 < Config.imageSize ∧ e.2 < 2 ^ 24

@[simp] theorem lastEmitted_nil (a : Nat) : lastEmitted [] a = none := rfl

theorem lastEmitted_singleton (b w a : Nat) : lastEmitted [(b, w)] a = if b = a then some w else none := by
  by_cases h : b = a <;> simp [lastEmitted, h]

/-- The later list has the last word. -/
theorem lastEmitted_append (es fs : List (Nat × Nat)) (a : Nat) :
    lastEmitted (es ++ fs) a = (lastEmitted fs a).or (lastEmitted es a) := by
  simp [lastEmitted, List.filter_append, List.getLast?_append, Option.map_or]

theorem lastEmitted_cons (e : Nat × Nat) (es : List (Nat × Nat)) (a : Nat) :
    lastEmitted (e :: es) a = (lastEmitted es a).or (if e.1 = a then some e.2 else none) := by
  rw [← lastEmitted_singleton, ← lastEmitted_append]
  rfl

/-- The last word at an address is the word of an EMIT of the list to that address. -/
theorem mem_of_lastEmitted {es : List (Nat × Nat)} {a w : Nat} (h : lastEmitted es a = some w) : (a, w) ∈ es := by
  obtain ⟨e, he, rfl⟩ := Option.map_eq_some_iff.mp h
  obtain ⟨hmem, ha⟩ := List.mem_filter.mp (List.mem_of_getLast? he)
  rwa [← beq_iff_eq.mp ha]

/-- Where at most one EMIT goes to each address, the last one there is the first one. -/
theorem lastEmitted_eq_find? {es : List (Nat × Nat)} (h : (es.map Prod.fst).Nodup) (a : Nat) :
    lastEmitted es a = (es.find? fun e => e.1 == a).map (·.2) := by
  induction es with
  | nil => rfl
  | cons e es ih =>
    obtain ⟨notLater, hes⟩ := List.nodup_cons.mp h
    rw [lastEmitted_cons]
    by_cases ha : e.1 = a
    · have later : lastEmitted es a = none := Option.eq_none_iff_forall_ne_some.mpr fun w hw =>
        notLater (ha ▸ List.mem_map_of_mem (f := Prod.fst) (mem_of_lastEmitted hw))
      simp [ha, later]
    · simp [ha, ih hes]

/-- A list in which each element emits at most one word to an address: the last element that does so decides. -/
theorem lastEmitted_flatMap_filter {α : Type} {f : α → List (Nat × Nat)} {names : α → Bool} {word : α → Nat} {a : Nat}
    {xs : List α} (h : ∀ x ∈ xs, lastEmitted (f x) a = if names x then some (word x) else none) :
    lastEmitted (xs.flatMap f) a = ((xs.filter names).getLast?).map word := by
  induction xs with
  | nil => rfl
  | cons x xs ih =>
    rw [List.flatMap_cons, lastEmitted_append, h x (List.mem_cons_self ..),
      ih fun y hy => h y (List.mem_cons_of_mem _ hy), List.filter_cons]
    by_cases hx : names x <;> simp [hx, List.getLast?_cons]

/-- A list in which only the element k emits to an address: what k emits last decides, if k is there. -/
theorem lastEmitted_flatMap_only {f : Nat → List (Nat × Nat)} {k a : Nat} {last : Option Nat} {xs : List Nat}
    (h : ∀ x ∈ xs, lastEmitted (f x) a = if x = k then last else none) :
    lastEmitted (xs.flatMap f) a = if k ∈ xs then last else none := by
  induction xs with
  | nil => rfl
  | cons x xs ih =>
    rw [List.flatMap_cons, lastEmitted_append, h x (List.mem_cons_self ..), ih fun y hy => h y (List.mem_cons_of_mem _ hy)]
    by_cases hx : x = k
    · subst hx
      split <;> simp
    · simp [hx, Ne.symm hx]

/-! ## What a list of EMITs does -/

theorem EmitsInRange.append {es fs : List (Nat × Nat)} (he : EmitsInRange es) (hf : EmitsInRange fs) :
    EmitsInRange (es ++ fs) := fun e h => (List.mem_append.mp h).elim (he e) (hf e)

theorem emitAll_singleton (p : Params) (a w : Nat) (b : Block) : emitAll p [(a, w)] b = emit p a w b :=
  forEach_singleton (fun e : Nat × Nat => emit p e.1 e.2) (a, w) b

/-- EMITs in range run to their end, whatever the medium rejects. -/
theorem emitAll_completed (p : Params) {es : List (Nat × Nat)} (h : EmitsInRange es) (b : Block) :
    (emitAll p es b).2 = .completed := by
  refine (forEach_completed (P := fun _ => True) (fun e he t _ => ⟨trivial, ?_⟩) trivial).2
  obtain ⟨ha, hw⟩ := h e he
  exact emit_completed p ha (hw.trans (by decide)) t

/-- A list of EMITs in range is its first EMIT and then the others. -/
theorem emitAll_cons (p : Params) {e : Nat × Nat} {es : List (Nat × Nat)} (h : EmitsInRange (e :: es)) (b : Block) :
    emitAll p (e :: es) b = emitAll p es (emit p e.1 e.2 b).1 := by
  obtain ⟨ha, hw⟩ := h e (List.mem_cons_self ..)
  exact andThen_of_completed (emit_completed p ha (hw.trans (by decide)) b) (emitAll p es)

/-- Where the medium accepts everything, each cell holds its lane of the last word emitted to its address, else what it
held, and nothing is recorded. -/
theorem emitAll_accepted {p : Params} (hp : p.acceptsAll) {es : List (Nat × Nat)} (h : EmitsInRange es) (b : Block) :
    (emitAll p es b).1.diag = b.diag ∧ ∀ c a, c < Config.chips →
      (emitAll p es b).1.cell c a = ((lastEmitted es a).map (laneOfWord · c)).or (b.cell c a) := by
  induction es generalizing b with
  | nil => exact ⟨rfl, fun _ _ _ => rfl⟩
  | cons e es ih =>
    obtain ⟨ha, hw⟩ := h e (List.mem_cons_self ..)
    obtain ⟨holds, noRecord, -⟩ := emit_accepted ha (hw.trans (by decide)) b hp
    obtain ⟨diag, cells⟩ := ih (fun x hx => h x (List.mem_cons_of_mem _ hx)) (emit p e.1 e.2 b).1
    rw [emitAll_cons p h]
    refine ⟨diag.trans noRecord, fun c a hc => ?_⟩
    rw [cells c a hc, lastEmitted_cons, Option.map_or, Option.or_assoc]
    congr 1
    by_cases hea : e.1 = a
    · subst hea
      simp [holds c hc]
    · simp [hea, emit_other p b hc (Ne.symm hea)]

/-! ## Each pass as a list of EMITs -/

/-- The nibbles a TABLE entry admits, in the order of its EMITs (42_table_expansion.md R81, R82). -/
def Entry.admitted (e : Entry) : List Nat :=
  match e.cond with
  | .any => nibbles
  | .only n => [n]

/-- The address of a TABLE entry at nibble 0. -/
def Entry.base (e : Entry) : Nat := e.opc * 4096 + e.am * 2048 + e.pf * 256 + e.step * 16

/-- The EMITs of a TABLE entry (R83). -/
def Entry.emits (e : Entry) : List (Nat × Nat) := e.admitted.map fun n => (e.base + n, e.cw)

/-- The EMITs of a JUMP_TEMPLATE entry at a selector and a nibble (43_jump_expander.md R90, R92). -/
def TemplateEntry.emits (t : TemplateEntry) (p : Params) (i n : Nat) : List (Nat × Nat) :=
  if t.taddr = p.decTaddr then [] else [(t.taddr + i * 256 + n, t.cw)]

/-- The EMITs of EXPAND.TABLE. -/
def Params.tableEmits (p : Params) : List (Nat × Nat) := p.entries.flatMap Entry.emits

/-- The EMITs of JSEQ, in loop order (R90). -/
def Params.templateEmits (p : Params) : List (Nat × Nat) :=
  selectors.flatMap fun i => nibbles.flatMap fun n => p.templateEntries.flatMap fun t => t.emits p i n

/-- The EMITs of a run of GENERATE: table, sequence, decision (R101). -/
def Params.emits (p : Params) : List (Nat × Nat) := p.tableEmits ++ p.templateEmits ++ p.decisionCells

theorem mem_nibbles {n : Nat} : n ∈ nibbles ↔ n ≤ 15 := by
  simp only [nibbles, List.mem_cons, List.not_mem_nil, or_false]
  omega

theorem mem_selectors {i : Nat} : i ∈ selectors ↔ 1 ≤ i ∧ i ≤ 7 := by
  simp only [selectors, List.mem_cons, List.not_mem_nil, or_false]
  omega

theorem mem_patterns {j : Nat} : j ∈ patterns ↔ j ≤ 7 := by
  simp only [patterns, List.mem_cons, List.not_mem_nil, or_false]
  omega

theorem Entry.le_of_mem_admitted {e : Entry} (he : e.inRange) {n : Nat} (hn : n ∈ e.admitted) : n ≤ 15 := by
  obtain ⟨-, -, -, -, hcond, -⟩ := he
  unfold Entry.admitted at hn
  split at hn
  · exact mem_nibbles.mp hn
  · next m hm => exact List.mem_singleton.mp hn ▸ hcond m hm

/-! ### EXPAND.TABLE -/

theorem Entry.encodeAddress_eq {e : Entry} (he : e.inRange) {n : Nat} (hn : n ≤ 15) :
    encodeAddress e.opc e.am e.pf e.step n = .ok (e.base + n) := by
  obtain ⟨ho, hm, hp, hs, -, -⟩ := he
  exact encodeAddress_ok ho hm hp hs hn

theorem expandEntry_eq_forEach (p : Params) (e : Entry) (b : Block) :
    expandEntry p e b = forEach (emitEncoded p e.opc e.am e.pf e.step e.cw) e.admitted b := by
  obtain ⟨opc, am, pf, step, _ | n, cw⟩ := e
  · rfl
  · exact (forEach_singleton (emitEncoded p opc am pf step cw) n b).symm

theorem expandEntry_eq (p : Params) {e : Entry} (he : e.inRange) (b : Block) :
    expandEntry p e b = emitAll p e.emits b := by
  rw [expandEntry_eq_forEach]
  refine forEach_eq_map (fun n hn t => ?_) b
  exact emitEncoded_of_ok (Entry.encodeAddress_eq he (Entry.le_of_mem_admitted he hn)) p e.cw t

theorem expandElement_of_parse {el : RawElement} {e : Entry} (h : parseEntry el = some e) (p : Params) (b : Block) :
    expandElement p el b = expandEntry p e b := by
  rw [expandElement, h]

theorem expandTable_eq {p : Params} (h : tableInRange p.table) (b : Block) :
    expandTable p b = emitAll p p.tableEmits b := by
  refine forEach_eq_filterMap_flatMap (fun el hel => ?_) b
  obtain ⟨e, hparse, he⟩ := h el hel
  exact ⟨e, hparse, fun t => (expandElement_of_parse hparse p t).trans (expandEntry_eq p he t)⟩

/-! ### JSEQ -/

theorem emitTemplate_eq (p : Params) {i n : Nat} (hi : i ≤ 7) (hn : n ≤ 15) {t : TemplateEntry} (ht : t.inRange)
    (b : Block) : emitTemplate p i n t b = emitAll p (t.emits p i n) b := by
  obtain ⟨hwide, hsel, hnibble, -⟩ := ht
  unfold emitTemplate TemplateEntry.emits
  split
  · rfl
  · rw [encodeJump_ok hwide hsel hnibble hi hn]
    exact (emitAll_singleton p (t.taddr + i * 256 + n) t.cw b).symm

theorem emitTemplateElement_of_parse {el : RawElement} {t : TemplateEntry} (h : parseTemplate el = some t) (p : Params)
    (i n : Nat) (b : Block) : emitTemplateElement p i n el b = emitTemplate p i n t b := by
  rw [emitTemplateElement, h]

theorem jseq_eq {p : Params} (h : templateInRange p.template) (b : Block) :
    jseq p b = emitAll p p.templateEmits b := by
  refine forEach_eq_flatMap (fun i hi t => ?_) b
  refine forEach_eq_flatMap (fun n hn u => ?_) t
  refine forEach_eq_filterMap_flatMap (fun el hel => ?_) u
  obtain ⟨x, hparse, hx⟩ := h el hel
  exact ⟨x, hparse, fun v => (emitTemplateElement_of_parse hparse p i n v).trans
    (emitTemplate_eq p (mem_selectors.mp hi).2 (mem_nibbles.mp hn) hx v)⟩

/-! ### JDEC -/

theorem Params.decTaddr_eq (p : Params) : p.decTaddr = p.jumpBase + 48 := rfl

theorem emitDecision_eq {p : Params} (hwide : p.jumpBase ≤ 65535) (hlow : p.jumpBase % 2048 = 0) {i j : Nat} (hi : i ≤ 7)
    (hj : j ≤ 7) (b : Block) : emitDecision p i j b =
      emit p (p.decTaddr + (i <<< Config.selShift) + (j <<< Config.flagpatShift)) (p.decisionWord i j) b := by
  have hdec := p.decTaddr_eq
  have hcond : j <<< Config.flagpatShift ≤ 15 := by rw [Config.flagpatShift, Nat.shiftLeft_eq]; omega
  have hsel : i <<< Config.selShift = i * 256 := Nat.shiftLeft_eq i 8
  rw [emitDecision, encodeJump_ok (by omega) (by omega) (by omega) hi hcond, hsel]

theorem jdec_eq {p : Params} (hwide : p.jumpBase ≤ 65535) (hlow : p.jumpBase % 2048 = 0) (b : Block) :
    jdec p b = emitAll p p.decisionCells b := by
  refine forEach_eq_flatMap (fun i hi t => ?_) b
  refine forEach_eq_map (fun j hj u => ?_) t
  exact emitDecision_eq hwide hlow (mem_selectors.mp hi).2 (mem_patterns.mp hj) u

/-! ### The three passes -/

/-- The passes are one list of EMITs. -/
theorem passes_eq {p : Params} (h : p.meetsConstraints) (b : Block) : passes p b = emitAll p p.emits b := by
  obtain ⟨-, htable, htemplate, ⟨hwide, hlow⟩, -⟩ := h
  have hjseq : jseq p = emitAll p p.templateEmits := funext (jseq_eq htemplate)
  have hjdec : jdec p = emitAll p p.decisionCells := funext (jdec_eq hwide hlow)
  rw [passes, expandTable_eq htable, hjseq, hjdec, Params.emits]
  unfold emitAll
  rw [forEach_append, forEach_append]

/-! ### The EMITs of a run are in range -/

/-- What holds of every value a list reads as holds of the values that are read off it. -/
theorem of_mem_filterMap {α β : Type} {read : α → Option β} {good : β → Prop} {xs : List α}
    (h : ∀ x ∈ xs, ∃ y, read x = some y ∧ good y) {y : β} (hy : y ∈ xs.filterMap read) : good y := by
  obtain ⟨x, hx, hread⟩ := List.mem_filterMap.mp hy
  obtain ⟨z, hz, hgood⟩ := h x hx
  rwa [Option.some.inj (hread.symm.trans hz)]

theorem Params.inRange_of_mem_entries {p : Params} (h : tableInRange p.table) {e : Entry} (he : e ∈ p.entries) :
    e.inRange := of_mem_filterMap h he

theorem Params.inRange_of_mem_templateEntries {p : Params} (h : templateInRange p.template) {t : TemplateEntry}
    (ht : t ∈ p.templateEntries) : t.inRange := of_mem_filterMap h ht

theorem tableEmits_inRange {p : Params} (h : tableInRange p.table) : EmitsInRange p.tableEmits := by
  intro x hx
  obtain ⟨e, he, hx⟩ := List.mem_flatMap.mp hx
  obtain ⟨n, hn, rfl⟩ := List.mem_map.mp hx
  have inRange := Params.inRange_of_mem_entries h he
  obtain ⟨-, -, -, -, -, hcw⟩ := id inRange
  exact ⟨encodeAddress_lt (Entry.encodeAddress_eq inRange (Entry.le_of_mem_admitted inRange hn)), hcw⟩

theorem templateEmits_inRange {p : Params} (h : templateInRange p.template) : EmitsInRange p.templateEmits := by
  intro x hx
  obtain ⟨i, hi, hx⟩ := List.mem_flatMap.mp hx
  obtain ⟨n, hn, hx⟩ := List.mem_flatMap.mp hx
  obtain ⟨t, ht, hx⟩ := List.mem_flatMap.mp hx
  obtain ⟨hwide, hsel, hnibble, hcw⟩ := Params.inRange_of_mem_templateEntries h ht
  unfold TemplateEntry.emits at hx
  split at hx
  · cases hx
  · rw [List.mem_singleton.mp hx]
    exact ⟨jumpSum_lt hwide hsel hnibble (mem_selectors.mp hi).2 (mem_nibbles.mp hn), hcw⟩

theorem decisionCells_inRange {p : Params} (hwide : p.jumpBase ≤ 65535) (hlow : p.jumpBase % 2048 = 0)
    (hcontinue : p.cwContinue < 2 ^ 24) (habort : p.cwAbort < 2 ^ 24) : EmitsInRange p.decisionCells := by
  intro x hx
  obtain ⟨i, hi, hx⟩ := List.mem_flatMap.mp hx
  obtain ⟨j, hj, rfl⟩ := List.mem_map.mp hx
  have hdec := p.decTaddr_eq
  have hi := (mem_selectors.mp hi).2
  have hj := mem_patterns.mp hj
  constructor
  · simp only [Config.imageSize, Config.selShift, Config.flagpatShift, Nat.shiftLeft_eq]
    omega
  · unfold Params.decisionWord
    split
    · exact hcontinue
    · exact habort

theorem emits_inRange {p : Params} (h : p.meetsConstraints) : EmitsInRange p.emits := by
  obtain ⟨-, htable, htemplate, ⟨hwide, hlow⟩, hcontinue, habort, -⟩ := h
  exact ((tableEmits_inRange htable).append (templateEmits_inRange htemplate)).append
    (decisionCells_inRange hwide hlow hcontinue habort)

/-! ## RESOLVE reads the last EMIT of each pass (R107) -/

theorem slice_cond (a : Nat) : slice a 3 0 = a % 16 := by simp [slice_eq]

theorem slice_sel (a : Nat) : slice a 10 8 = a / 256 % 8 := by simp [slice_eq]

/-- An entry reaches an address at one nibble only, the address's own. -/
theorem Entry.lastEmitted_emits {e : Entry} (he : e.inRange) (a : Nat) :
    lastEmitted e.emits a = if e.names a then some e.cw else none := by
  have atNibble : ∀ n ∈ e.admitted, lastEmitted [(e.base + n, e.cw)] a =
      if n = a % 16 then (if e.base + a % 16 = a then some e.cw else none) else none := by
    intro n hn
    have hn := Entry.le_of_mem_admitted he hn
    have hbase : e.base % 16 = 0 := by unfold Entry.base; omega
    rw [lastEmitted_singleton]
    by_cases hna : n = a % 16
    · simp [hna]
    · rw [if_neg hna, if_neg (by omega)]
  have names : e.names a = true ↔ a % 16 ∈ e.admitted ∧ e.base + a % 16 = a := by
    rw [Entry.names, slice_cond, Entry.encodeAddress_eq he (by omega), Entry.admitted]
    cases e.cond with
    | any =>
      have : a % 16 ≤ 15 := by omega
      simp [mem_nibbles, this]
    | only n => simp [eq_comm (a := n), and_comm]
  rw [Entry.emits, List.map_eq_flatMap, lastEmitted_flatMap_only atNibble]
  simp only [names, ite_and]

theorem lastEmitted_tableEmits {p : Params} (h : tableInRange p.table) (a : Nat) :
    lastEmitted p.tableEmits a = p.tableAt a :=
  lastEmitted_flatMap_filter fun _ he => Entry.lastEmitted_emits (Params.inRange_of_mem_entries h he) a

/-- A template entry reaches an address at its own selector and nibble only. -/
theorem TemplateEntry.lastEmitted_emits {t : TemplateEntry} (ht : t.inRange) (p : Params) {i n a : Nat} (hi : 1 ≤ i)
    (hi7 : i ≤ 7) (hn : n ≤ 15) (ha : a < 65536) :
    lastEmitted (t.emits p i n) a =
      if t.copiedTo p a && decide (n = a % 16) && decide (i = a / 256 % 8) then some t.cw else none := by
  obtain ⟨hwide, hsel, hnibble, -⟩ := ht
  have reaches : t.taddr + i * 256 + n = a ↔
      (1 ≤ a / 256 % 8 ∧ t.taddr = a / 2048 * 2048 + a / 16 % 16 * 16) ∧ n = a % 16 ∧ i = a / 256 % 8 := by omega
  unfold TemplateEntry.emits TemplateEntry.copiedTo
  rw [and_F8F0 ha, slice_sel]
  split
  · next hdec => simp [hdec]
  · next hdec => simp [lastEmitted_singleton, reaches, hdec, and_assoc]

/-- JSEQ emits to an address in one turn of its two outer loops only, so the last entry copied there has the last word. -/
theorem lastEmitted_templateEmits {p : Params} (h : templateInRange p.template) {a : Nat} (ha : a < 65536) :
    lastEmitted p.templateEmits a = p.templateAt a := by
  have turn : ∀ i ∈ selectors, ∀ n ∈ nibbles, lastEmitted (p.templateEntries.flatMap fun t => t.emits p i n) a =
      if n = a % 16 then (if i = a / 256 % 8 then p.templateAt a else none) else none := by
    intro i hi n hn
    obtain ⟨hi, hi7⟩ := mem_selectors.mp hi
    rw [lastEmitted_flatMap_filter fun t ht => TemplateEntry.lastEmitted_emits
      (Params.inRange_of_mem_templateEntries h ht) p hi hi7 (mem_nibbles.mp hn) ha]
    by_cases hna : n = a % 16 <;> by_cases hia : i = a / 256 % 8 <;> simp [hna, hia, Params.templateAt]
  have nibble : a % 16 ∈ nibbles := mem_nibbles.mpr (by omega)
  have selector : ∀ i ∈ selectors, _ := fun i hi => (lastEmitted_flatMap_only (turn i hi)).trans (if_pos nibble)
  rw [Params.templateEmits, lastEmitted_flatMap_only selector]
  split_ifs with hsel
  · rfl
  · have notCopied : ∀ t : TemplateEntry, t.copiedTo p a = false := fun t => by
      have : ¬ 1 ≤ a / 256 % 8 := fun hs => hsel (mem_selectors.mpr (by omega))
      simp [TemplateEntry.copiedTo, slice_sel, this]
    simp [Params.templateAt, notCopied]

/-- The 56 decision cells have 56 addresses. -/
theorem decisionCells_nodup (p : Params) : (p.decisionCells.map Prod.fst).Nodup := by
  have offsets : p.decisionCells.map Prod.fst = (selectors.flatMap fun i => patterns.map fun j =>
      (i <<< Config.selShift) + (j <<< Config.flagpatShift)).map (p.decTaddr + ·) := by
    simp [Params.decisionCells, List.map_flatMap, Function.comp_def, Nat.add_assoc]
  rw [offsets]
  exact List.Nodup.map (fun _ _ => Nat.add_left_cancel) (by decide)

theorem lastEmitted_decisionCells (p : Params) (a : Nat) : lastEmitted p.decisionCells a = p.decisionAt a :=
  lastEmitted_eq_find? (decisionCells_nodup p) a

/-- The last EMIT of a run to an address is the one RESOLVE names: decision over template over table. -/
theorem lastEmitted_emits {p : Params} (h : p.meetsConstraints) {a : Nat} (ha : a < 65536) :
    lastEmitted p.emits a = p.writtenAt a := by
  obtain ⟨-, htable, htemplate, -⟩ := h
  rw [Params.emits, lastEmitted_append, lastEmitted_append, lastEmitted_decisionCells,
    lastEmitted_templateEmits htemplate ha, lastEmitted_tableEmits htable, Params.writtenAt, Option.or_assoc]

/-! ## VALIDATE (R100) -/

theorem firstViolation_eq_none_iff (cs : List (Option SpecFault)) :
    firstViolation cs = none ↔ ∀ c ∈ cs, c = none := by
  induction cs with
  | nil => simp [firstViolation]
  | cons c cs ih => cases c <;> simp [firstViolation, ih]

@[simp] theorem rangeCheck_eq_none_iff (ok : Bool) (what : What) (v : Nat) : rangeCheck ok what v = none ↔ ok = true := by
  cases ok <;> simp [rangeCheck]

/-- The mask 0x070F of a number is zero where its selector and nibble bits are. -/
theorem and_070F_eq_zero_iff (v : Nat) : v &&& 0x070F = 0 ↔ v / 256 % 8 = 0 ∧ v % 16 = 0 := by
  have high : (v &&& 0x070F) / 2 ^ 8 = v / 256 % 8 := by
    rw [← Nat.shiftRight_eq_div_pow, Nat.shiftRight_and_distrib, Nat.shiftRight_eq_div_pow]
    exact Nat.and_two_pow_sub_one_eq_mod _ 3
  have low : (v &&& 0x070F) % 2 ^ 8 = v % 16 := by
    rw [Nat.and_mod_two_pow, show 0x070F % 2 ^ 8 = 2 ^ 4 - 1 from rfl, Nat.and_two_pow_sub_one_eq_mod]
    omega
  omega

theorem lt_wordLimit_iff (v : Nat) : v < Config.wordLimit ↔ v < 2 ^ 24 := Iff.rfl

theorem lt_laneLimit_iff (v : Nat) : v < Config.laneLimit ↔ v < 256 := Iff.rfl

theorem checkTableElement_eq_none_iff (k : Nat) (el : RawElement) :
    checkTableElement k el = none ↔ ∃ e, parseEntry el = some e ∧ e.inRange := by
  unfold checkTableElement
  cases parseEntry el with
  | none => simp
  | some e =>
    obtain ⟨opc, am, pf, step, _ | n, cw⟩ := e <;>
      simp [firstViolation_eq_none_iff, lt_wordLimit_iff, Entry.inRange]

theorem checkTemplateElement_eq_none_iff (k : Nat) (el : RawElement) :
    checkTemplateElement k el = none ↔ ∃ t, parseTemplate el = some t ∧ t.inRange := by
  unfold checkTemplateElement
  cases parseTemplate el with
  | none => simp
  | some t =>
    simp [firstViolation_eq_none_iff, lt_wordLimit_iff, TemplateEntry.inRange, and_070F_eq_zero_iff, and_assoc]

theorem checkElements_eq_none_iff {check : Nat → RawElement → Option SpecFault} {good : RawElement → Prop}
    (h : ∀ k el, check k el = none ↔ good el) (k : Nat) (els : List RawElement) :
    checkElements check k els = none ↔ ∀ el ∈ els, good el := by
  induction els generalizing k with
  | nil => simp [checkElements]
  | cons el els ih => simp [checkElements, firstViolation_eq_none_iff, h, ih]

theorem checkLayout_eq_none_iff (L : Layout) : checkLayout L = none ↔ L.valid = true := by
  unfold checkLayout Layout.valid
  cases L.firstOffender <;> simp

/-- VALIDATE passes exactly the parameters that meet the constraints. -/
theorem validate_eq_none_iff (p : Params) : validate p = none ↔ p.meetsConstraints := by
  have base : p.jumpBase &&& 0x07FF = p.jumpBase % 2048 := Nat.and_two_pow_sub_one_eq_mod _ 11
  simp [validate, firstViolation_eq_none_iff, checkLayout_eq_none_iff,
    checkElements_eq_none_iff checkTableElement_eq_none_iff,
    checkElements_eq_none_iff checkTemplateElement_eq_none_iff, Params.meetsConstraints, tableInRange, templateInRange,
    lt_wordLimit_iff, lt_laneLimit_iff, base]

/-! ## GENERATE (R101) -/

theorem expandTable_completed {p : Params} (h : tableInRange p.table) (b : Block) :
    (expandTable p b).2 = .completed := by
  rw [expandTable_eq h]
  exact emitAll_completed p (tableEmits_inRange h) b

theorem jseq_completed {p : Params} (h : templateInRange p.template) (b : Block) : (jseq p b).2 = .completed := by
  rw [jseq_eq h]
  exact emitAll_completed p (templateEmits_inRange h) b

theorem jdec_completed {p : Params} (h : p.meetsConstraints) (b : Block) : (jdec p b).2 = .completed := by
  obtain ⟨-, -, -, ⟨hwide, hlow⟩, hcontinue, habort, -⟩ := h
  rw [jdec_eq hwide hlow]
  exact emitAll_completed p (decisionCells_inRange hwide hlow hcontinue habort) b

/-- The passes run to their end, each from the block the pass before it left. -/
theorem passes_eq_chain {p : Params} (h : p.meetsConstraints) (b : Block) :
    passes p b = ((jdec p (jseq p (expandTable p b).1).1).1, .completed) := by
  obtain ⟨-, htable, htemplate, -⟩ := id h
  rw [passes, andThen_of_completed (expandTable_completed htable b), andThen_of_completed (jseq_completed htemplate _)]
  exact Prod.ext rfl (jdec_completed h _)

/-- The passes of a run record existing cells only. -/
theorem passes_records_inRange (p : Params) : ∀ r ∈ (passes p Block.reset).1.diag, r.inRange = true := by
  obtain ⟨records, diag, inRange, -⟩ := (passes_placements p Block.reset).diag
  rwa [diag, Block.reset_diag, List.nil_append]

/-- The passes of a run record nothing where the medium accepts everything. -/
theorem passes_accepted_diag {p : Params} (h : p.meetsConstraints) (hp : p.acceptsAll) :
    (passes p Block.reset).1.diag = [] := by
  rw [passes_eq h]
  exact (emitAll_accepted hp (emits_inRange h) Block.reset).1

/-- GENERATE on parameters that VALIDATE rejects ends with outcome Fatal, from the block at the start of a run. -/
theorem exec_generate_fatal {s : State} {f : SpecFault} (h : validate s.params = some f) :
    exec .generate s = .next (s.takeFatal f) := by
  show runGenerate s.startRun = _
  rw [runGenerate, State.startRun_params, h]
  rfl

/-- GENERATE on parameters that meet the constraints ends with outcome Finished on any medium, with the block its passes
leave. -/
theorem exec_generate {s : State} (h : s.params.meetsConstraints) :
    exec .generate s = .next (s.finish (passes s.params Block.reset).1) := by
  show runGenerate s.startRun = _
  rw [runGenerate, State.startRun_params, (validate_eq_none_iff _).mpr h, State.startRun_toBlock, passes_eq_chain h]
  rfl

/-! ## LOOKUP (R102) -/

theorem exec_lookup {s : State} {a w : Nat} (ha : a ≤ 65535) (hs : s.finished = true)
    (hw : lookupWord s.params s.toBlock a = .ok w) : exec (.lookup a) s = .next { s with result := .word w } := by
  show execLookup a s = _
  rw [execLookup, if_neg (by omega), if_pos hs, hw, answer_map_ok]

/-- The fill bytes of parameters that meet the constraints are bytes. -/
theorem Params.fill_lt {p : Params} (h : p.meetsConstraints) (c : Nat) : p.fill c < 256 := by
  obtain ⟨-, -, -, -, -, -, -, h0, h1, h2⟩ := h
  unfold Params.fill
  split <;> assumption

theorem Block.finalByte_lt {p : Params} (h : p.meetsConstraints) (b : Block) (c a : Nat) : b.finalByte p c a < 256 := by
  unfold Block.finalByte
  split
  · next v _ => exact v.isLt
  · exact p.fill_lt h c

/-- With legal fill bytes the three final bytes of an address join to a word of 24 bits. -/
theorem lookupWord_ok {p : Params} (h : p.meetsConstraints) (b : Block) (a : Nat) :
    ∃ w, w < 2 ^ 24 ∧ lookupWord p b a = .ok w := by
  have h0 := b.finalByte_lt h 0 a
  have h1 := b.finalByte_lt h 1 a
  have h2 := b.finalByte_lt h 2 a
  exact ⟨_, by omega, laneJoin_ok h0 h1 h2⟩

/-- A block that holds at an address the lanes of a 24-bit word reads as that word, one that holds nothing there as the
fill word. -/
theorem lookupWord_of_cells {p : Params} (h : p.meetsConstraints) {b : Block} {a : Nat} {written : Option Nat}
    (hcells : ∀ c, c < Config.chips → b.cell c a = written.map (laneOfWord · c)) (hw : ∀ w, written = some w → w < 2 ^ 24) :
    lookupWord p b a = .ok (written.getD p.fillWord) := by
  have cell0 := hcells 0 (by decide)
  have cell1 := hcells 1 (by decide)
  have cell2 := hcells 2 (by decide)
  cases written with
  | none =>
    have hfill := p.fill_lt h
    simp only [lookupWord, Block.finalByte, cell0, cell1, cell2, Option.map_none]
    rw [laneJoin_ok (hfill 0) (hfill 1) (hfill 2)]
    rfl
  | some w =>
    have := hw w rfl
    simp only [lookupWord, Block.finalByte, cell0, cell1, cell2, Option.map_some, laneOfWord, BitVec.toNat_ofNat]
    rw [laneJoin_ok (by omega) (by omega) (by omega), Option.getD_some]
    congr 1
    omega

/-- After the passes of a run on an accepting medium every address reads as RESOLVE of it. -/
theorem lookupWord_passes {p : Params} (h : p.meetsConstraints) (hp : p.acceptsAll) {a : Nat} (ha : a < 65536) :
    lookupWord p (passes p Block.reset).1 a = .ok (p.resolve a) := by
  rw [passes_eq h]
  obtain ⟨-, cells⟩ := emitAll_accepted hp (emits_inRange h) Block.reset
  have last := lastEmitted_emits h ha
  refine lookupWord_of_cells h (fun c hc => ?_) fun w hw => ?_
  · rw [cells c a hc, Block.reset_cell, Option.or_none, last]
  · exact (emits_inRange h _ (mem_of_lastEmitted (last.trans hw))).2

/-! ## The statements -/

/-- Settles O39: each pass completes on the block the pass before it left, GENERATE runs the same three on the same blocks,
and all they do is a sequence of placements. -/
theorem generateRunsThePassesInOrder : Obligations.GenerateRunsThePassesInOrder := by
  unfold Obligations.GenerateRunsThePassesInOrder
  refine fun s => ⟨fun h => ?_, fun f hf => exec_generate_fatal hf⟩
  obtain ⟨-, htable, htemplate, -⟩ := id h
  have generated := exec_generate h
  have canonical := (passes_placements s.params Block.reset).wf Block.memoryWf_reset
  have records := passes_records_inRange s.params
  have noRecord := passes_accepted_diag h
  rw [passes_eq_chain h] at generated canonical records noRecord
  exact ⟨_, _, _, _, settle_completed _ (expandTable_completed htable _), settle_completed _ (jseq_completed htemplate _),
    settle_completed _ (jdec_completed h _), rfl, generated, rfl, rfl, canonical, records, noRecord⟩

/-- Settles O41: GENERATE is one list of EMITs, each cell holds the last of them, and RESOLVE names that one. -/
theorem lookupAfterGenerateIsResolve : Obligations.LookupAfterGenerateIsResolve := by
  unfold Obligations.LookupAfterGenerateIsResolve
  exact fun s h hp => ⟨_, exec_generate h, rfl, fun a ha => exec_lookup (by omega) rfl (lookupWord_passes h hp ha)⟩

/-- Settles O42: whatever the medium stored, an unwritten cell reads as its fill byte, so three bytes are joined. -/
theorem lookupIsTotalAfterGenerate : Obligations.LookupIsTotalAfterGenerate := by
  unfold Obligations.LookupIsTotalAfterGenerate
  refine fun s h => ⟨_, exec_generate h, fun a ha => ?_⟩
  obtain ⟨w, hw, hjoin⟩ := lookupWord_ok h (passes s.params Block.reset).1 a
  exact ⟨w, hw, exec_lookup ha rfl hjoin⟩

end Sys2Proof.Machine

/-! The outcome Fatal (60_exceptions.md R116): a run that ends so delivers no image. Nothing can be read off the state it
leaves, because both read paths ask for a finished run (20_memory.md R36). -/

namespace Sys2Proof.Machine

/-! ## Reads before a finished run -/

theorem exec_lookup_unfinished {s : State} {a : Nat} (ha : a < 65536) (hs : s.finished = false) :
    exec (.lookup a) s = .refused .readBeforeFinished := by
  show execLookup a s = _
  rw [execLookup, if_neg (by omega), hs, if_neg Bool.false_ne_true]

theorem exec_imgread_unfinished {s : State} {c a : Nat} (hc : c < Config.chips) (ha : a < Config.imageSize)
    (hs : s.finished = false) : exec (.imgread c a) s = .refused .readBeforeFinished := by
  show execImgread c a s = _
  rw [execImgread, if_pos ⟨hc, ha⟩, hs, if_neg Bool.false_ne_true]

/-! ## The statement -/

/-- Settles O38: a run that VALIDATE rejects ends in the block at the start of a run, and the state is not marked finished. -/
theorem fatalFaultDeliversNoImage : Obligations.FatalFaultDeliversNoImage := by
  unfold Obligations.FatalFaultDeliversNoImage
  intro s f hf
  have unwritten (c a : Nat) : (s.takeFatal f).cell c a = none := Block.reset_cell c a
  have unfinished : (s.takeFatal f).finished = false := s.takeFatal_finished f
  exact ⟨s.takeFatal f, exec_generate_fatal hf, unfinished, rfl, rfl, rfl, rfl, rfl, fun c a _ => unwritten c a,
    fun a ha => ⟨exec_lookup_unfinished ha unfinished, fun c hc => exec_imgread_unfinished hc ha unfinished⟩⟩

end Sys2Proof.Machine

/-! What one instruction can do, said once for all 124 rows: a pure call changes the result only, a storing call settles a
sequence of placements, a read or VALIDATE that answers changes the result only, and GENERATE starts from the block after
reset. The invariants of a step (10_state.md, 20_memory.md, 60_exceptions.md) are read off these. -/

namespace Sys2Proof.Machine

/-! ## One answer per kind of instruction -/

/-- A pure call is the answer of some value or fault (60_exceptions.md R118). -/
theorem exec_pureCall {i : Instr} (h : pureCall i = true) (s : State) : ∃ v, exec i s = .next { s with result := v } := by
  cases i <;> simp only [pureCall, Bool.false_eq_true] at h <;> exact answer_next s _

/-- PLACE as a call settles the one placement. -/
theorem exec_place (a c v : Nat) (s : State) :
    exec (.place a c v) s = settle s
      (match place s.params a c v s.toBlock with
        | .ok b => (b, .completed)
        | .error f => (s.toBlock, .raised f)) := by
  show execPlace a c v s = _
  unfold execPlace
  cases place s.params a c v s.toBlock <;> rfl

/-- A storing call settles a sequence of placements. -/
theorem exec_storingCall {i : Instr} (h : storingCall i = true) (s : State) :
    ∃ r, exec i s = settle s r ∧ Placements s.toBlock r.1 := by
  cases i
  case place a c v =>
    refine ⟨_, exec_place a c v s, ?_⟩
    cases hp : place s.params a c v s.toBlock with
    | ok b => exact place_placements hp
    | error f => exact .refl _
  case emit a w => exact ⟨_, rfl, emit_placements s.params a w s.toBlock⟩
  case expandFixed opc am pf step n cw => exact ⟨_, rfl, emitEncoded_placements s.params opc am pf step cw n s.toBlock⟩
  case expandWild opc am pf step cw => exact ⟨_, rfl, expandWild_placements s.params opc am pf step cw s.toBlock⟩
  case expandTable => exact ⟨_, rfl, expandTable_placements s.params s.toBlock⟩
  case jseq => exact ⟨_, rfl, jseq_placements s.params s.toBlock⟩
  case jdec => exact ⟨_, rfl, jdec_placements s.params s.toBlock⟩
  all_goals simp only [storingCall, Bool.false_eq_true] at h
  all_goals exact ⟨_, rfl, emitDecision_placements s.params _ _ s.toBlock⟩

theorem execImgread_next {c a : Nat} {s t : State} (h : execImgread c a s = .next t) : ∃ v, t = { s with result := v } := by
  unfold execImgread at h
  split_ifs at h
  cases h
  exact ⟨_, rfl⟩

theorem execLookup_next {a : Nat} {s t : State} (h : execLookup a s = .next t) : ∃ v, t = { s with result := v } := by
  unfold execLookup at h
  split_ifs at h
  · cases h
    exact ⟨_, rfl⟩
  · obtain ⟨v, hv⟩ := answer_next s ((lookupWord s.params s.toBlock a).map Result.word)
    exact ⟨v, Host.Outcome.next.inj (h.symm.trans hv)⟩

theorem exec_validate (s : State) : exec .validate s = answer s
    (match validate s.params with
      | none => .ok .done
      | some f => .error f) := by
  show execValidate s = _
  unfold execValidate
  cases validate s.params <;> rfl

/-- A call that neither stores nor runs GENERATE changes the result only. -/
theorem exec_reading {i : Instr} {s t : State} (hg : i ≠ .generate) (hst : storingCall i = false)
    (h : exec i s = .next t) : ∃ v, t = { s with result := v } := by
  by_cases hp : pureCall i = true
  · obtain ⟨v, hv⟩ := exec_pureCall hp s
    exact ⟨v, Host.Outcome.next.inj (h.symm.trans hv)⟩
  cases i
  case imgread c a => exact execImgread_next h
  case lookup a => exact execLookup_next h
  case validate =>
    obtain ⟨v, hv⟩ := answer_next s _
    exact ⟨v, Host.Outcome.next.inj (h.symm.trans ((exec_validate s).trans hv))⟩
  case generate => exact absurd rfl hg
  all_goals simp only [storingCall, pureCall, Bool.true_eq_false, not_true] at hst hp

/-- What any call but GENERATE leaves: the block after a sequence of placements, which is the block itself unless the call
stores, and a result. -/
theorem exec_cases {i : Instr} {s t : State} (hg : i ≠ .generate) (h : exec i s = .next t) :
    ∃ b v, t = { s with toBlock := b, result := v } ∧ Placements s.toBlock b ∧
      (storingCall i = false → b = s.toBlock) := by
  cases hst : storingCall i with
  | false =>
    obtain ⟨v, rfl⟩ := exec_reading hg hst h
    exact ⟨_, v, rfl, .refl _, fun _ => rfl⟩
  | true =>
    obtain ⟨r, hr, hpl⟩ := exec_storingCall hst s
    obtain ⟨v, rfl⟩ := settle_next (hr.symm.trans h)
    exact ⟨_, v, rfl, hpl, fun no => Bool.noConfusion no⟩

/-- GENERATE answers the outcome Fatal with the fault of VALIDATE, or the outcome Finished with the block its passes
leave (44_generate_and_lookup.md R101). -/
theorem exec_generate_cases {s t : State} (h : exec .generate s = .next t) :
    (∃ f, validate s.params = some f ∧ t = s.takeFatal f) ∨
      (validate s.params = none ∧ t = s.finish (passes s.params Block.reset).1) := by
  cases hv : validate s.params with
  | some f => exact .inl ⟨f, rfl, Host.Outcome.next.inj (h.symm.trans (exec_generate_fatal hv))⟩
  | none =>
    have meets := (validate_eq_none_iff _).mp hv
    exact .inr ⟨rfl, Host.Outcome.next.inj (h.symm.trans (exec_generate meets))⟩

/-- No call writes the parameters or the pending calls. -/
theorem exec_params_calls {i : Instr} {s t : State} (h : exec i s = .next t) :
    t.params = s.params ∧ t.calls = s.calls := by
  by_cases hg : i = .generate
  · subst hg
    obtain ⟨f, -, rfl⟩ | ⟨-, rfl⟩ := exec_generate_cases h
    · exact ⟨rfl, rfl⟩
    · exact ⟨rfl, rfl⟩
  · obtain ⟨b, v, rfl, -, -⟩ := exec_cases hg h
    exact ⟨rfl, rfl⟩

/-! ## The invariant -/

/-- Placements keep canonical images and a DIAG of existing cells with no more records than placements. -/
theorem Placements.keeps_inv {b u : Block} (h : Placements b u) (wf : b.memoryWf = true)
    (records : ∀ r ∈ b.diag, r.inRange = true) (count : b.diag.length ≤ b.placed) :
    u.memoryWf = true ∧ (∀ r ∈ u.diag, r.inRange = true) ∧ u.diag.length ≤ u.placed := by
  obtain ⟨d, hd, hr, hl⟩ := h.diag
  have := h.placed
  refine ⟨h.wf wf, fun r hm => ?_, ?_⟩
  · rw [hd] at hm
    exact (List.mem_append.mp hm).elim (records r) (hr r)
  · rw [hd, List.length_append]
    omega

/-- A call answers a state that meets the invariant if the state before it does. -/
theorem exec_keeps_inv {i : Instr} {s t : State} (hs : s.Inv) (h : exec i s = .next t) : t.Inv := by
  by_cases hg : i = .generate
  · subst hg
    obtain ⟨f, -, rfl⟩ | ⟨valid, rfl⟩ := exec_generate_cases h
    · exact ⟨rfl, fun _ hr => absurd hr List.not_mem_nil, le_rfl, fun no => Bool.noConfusion no⟩
    · obtain ⟨wf, records, count⟩ := (passes_placements s.params Block.reset).keeps_inv rfl
        (fun _ hr => absurd hr List.not_mem_nil) le_rfl
      exact ⟨wf, records, count, fun _ => valid⟩
  · obtain ⟨wf, records, count, valid⟩ := hs
    obtain ⟨b, v, rfl, hpl, -⟩ := exec_cases hg h
    obtain ⟨wf', records', count'⟩ := hpl.keeps_inv wf records count
    exact ⟨wf', records', count', valid⟩

/-! ## The statements -/

/-- Settles O56: a step is one call on the state without it, every call keeps the invariant, and GENERATE sets the Finished
mark only after a VALIDATE that passes. -/
theorem stepKeepsTheInvariant : Obligations.StepKeepsTheInvariant := by
  unfold Obligations.StepKeepsTheInvariant
  intro s t hs h
  obtain ⟨-, hstep⟩ | ⟨f, rest, e, -, -, hstep⟩ | ⟨f, rest, i, -, -, hstep⟩ := step_cases s
  · exact Host.Outcome.next.inj (hstep.symm.trans h) ▸ hs
  · exact absurd (hstep.symm.trans h) (by simp)
  · exact exec_keeps_inv (s := { s with calls := rest }) hs (hstep.symm.trans h)

/-- Settles O52: every call but GENERATE leaves the block of a sequence of placements, whose records are counted. -/
theorem diagOnlyGrows : Obligations.DiagOnlyGrows := by
  unfold Obligations.DiagOnlyGrows
  intro i s t hg h
  obtain ⟨b, v, rfl, hpl, -⟩ := exec_cases hg h
  obtain ⟨d, hd, inRange, count⟩ := hpl.diag
  have := hpl.placed
  refine ⟨d, hd, fun r hr => ?_, by show s.placed + d.length ≤ b.placed; omega⟩
  have := inRange r hr
  rwa [WriteTargetFailure.inRange, Bool.and_eq_true, decide_eq_true_eq, decide_eq_true_eq] at this

/-- Settles O53: placements keep written cells written, and a call that does not store leaves the block as it was. -/
theorem writtenCellsStayWritten : Obligations.WrittenCellsStayWritten := by
  unfold Obligations.WrittenCellsStayWritten
  intro i s t hg h
  obtain ⟨b, v, rfl, hpl, same⟩ := exec_cases hg h
  exact ⟨hpl.kept, fun hst c a _ => congrArg (·.cell c a) (same hst)⟩

/-- Settles O51: each of these calls answers a value or a fault. -/
theorem pureCallsTouchOnlyTheResult : Obligations.PureCallsTouchOnlyTheResult := by
  unfold Obligations.PureCallsTouchOnlyTheResult
  exact fun i s h => exec_pureCall h s

/-- Settles O54: a call but GENERATE changes the block and the result only. -/
theorem onlyGenerateStartsOrEndsARun : Obligations.OnlyGenerateStartsOrEndsARun := by
  unfold Obligations.OnlyGenerateStartsOrEndsARun
  refine fun i s t h => ⟨(exec_params_calls h).2, fun hg => ?_⟩
  obtain ⟨b, v, rfl, -, -⟩ := exec_cases hg h
  rfl

/-- The step answers the parameters it was given. -/
theorem stepWith_params {p : Params} {s t : State} (h : stepWith p s = .next t) : t.params = p := by
  unfold stepWith at h
  split at h
  · exact Host.Outcome.next.inj h ▸ rfl
  · split at h
    · cases h
    · exact (exec_params_calls h).1

/-- Settles O55: `stepWith` puts its argument in the place of the parameters before anything reads them, and no call writes
them. -/
theorem stepNeverWritesParameters : Obligations.StepNeverWritesParameters := by
  unfold Obligations.StepNeverWritesParameters
  exact ⟨fun _ _ h => stepWith_params h, fun _ _ _ => rfl, fun _ _ _ h => stepWith_params h, fun _ => rfl⟩

/-- Settles O59: the three cases of a step, each with its condition. -/
theorem stepRunsTheDecodedCall : Obligations.StepRunsTheDecodedCall := by
  unfold Obligations.StepRunsTheDecodedCall
  refine fun s => ⟨fun f rest i hc hd => ?_, fun f rest e hc hd => ?_, fun hc => ?_⟩
  · simp only [step, stepWith, hc, hd]
  · simp only [step, stepWith, hc, hd]
  · obtain ⟨-, hstep⟩ | ⟨f, rest, e, hf, -⟩ | ⟨f, rest, i, hf, -⟩ := step_cases s
    · exact hstep
    · exact absurd (hc.symm.trans hf) (by simp)
    · exact absurd (hc.symm.trans hf) (by simp)

/-- Settles O57: the reset images are empty, no run has finished, and no rule rejects a placement. -/
theorem resetMeetsTheInvariant : Obligations.ResetMeetsTheInvariant := by
  unfold Obligations.ResetMeetsTheInvariant
  have inv : State.reset.Inv :=
    ⟨State.memoryWf_reset, fun _ hr => absurd hr List.not_mem_nil, le_rfl, fun no => Bool.noConfusion no⟩
  have noFill (c : Nat) : State.reset.params.fill c = 0 := by rcases c with _ | _ | c <;> rfl
  exact ⟨inv, Block.reset_cell, rfl, rfl, noFill, rfl, fun _ _ _ _ => rfl⟩

/-- Settles O40: GENERATE starts from the block after reset, so only the parameters and the pending calls reach it. -/
theorem generateForgetsEarlierState : Obligations.GenerateForgetsEarlierState := by
  unfold Obligations.GenerateForgetsEarlierState
  intro s t hp hc
  have start : s.startRun = t.startRun := by
    unfold State.startRun
    rw [hp, hc]
  exact congrArg runGenerate start

end Sys2Proof.Machine

/-! Call frames (log 2): the bytes of a number give the number back, so the row number and the operands are read from the
frame as they were written; and the bare patterns of the table (log 3). -/

namespace Sys2Proof

/-- The bytes of a number hold its low bits. -/
theorem leNat_leBytes (n v : Nat) : leNat (leBytes n v) = v % 256 ^ n := by
  induction n generalizing v with
  | zero => simp [leBytes, leNat, Nat.mod_one]
  | succ n ih =>
    have byte : (BitVec.ofNat 8 v).toNat = v % 256 := BitVec.toNat_ofNat v 8
    rw [leBytes, leNat, ih, byte, Nat.pow_succ', Nat.mod_mul]

/-- Eight bytes in front of operand bytes are one more operand. -/
theorem operandsOf_leBytes_append (v : Nat) (hv : v < operandLimit) {vs : List Nat} {rest : Frame}
    (h : operandsOf rest = some vs) : operandsOf (leBytes 8 v ++ rest) = some (v :: vs) := by
  have value : leNat (leBytes 8 v) = v := (leNat_leBytes 8 v).trans (Nat.mod_eq_of_lt hv)
  simp only [leBytes] at value ⊢
  simp only [List.cons_append, List.nil_append, operandsOf, h, value]

/-- The operand bytes of a frame give the operands back. -/
theorem operandsOf_flatMap {vs : List Nat} (h : ∀ v ∈ vs, v < operandLimit) :
    operandsOf (vs.flatMap (leBytes 8)) = some vs := by
  induction vs with
  | nil => rfl
  | cons v vs ih =>
    obtain ⟨hv, hvs⟩ := List.forall_mem_cons.mp h
    exact operandsOf_leBytes_append v hv (ih hvs)

/-- The row number of every instruction is one of the table's 124. -/
theorem Instr.code_lt (i : Instr) : i.code < 124 := by cases i <;> simp only [Instr.code] <;> decide

/-- Row number and operands name the instruction. -/
theorem rebuild_code_operands (i : Instr) : rebuild i.code i.operands = some i := by cases i <;> rfl

/-- The call code of a frame is its first four bytes, and the operands follow. -/
theorem decode_leBytes_append (code : Nat) (hc : code < 256 ^ 4) (operands : Frame) :
    decode (leBytes 4 code ++ operands) = decodeCall code operands := by
  have value : leNat (leBytes 4 code) = code := (leNat_leBytes 4 code).trans (Nat.mod_eq_of_lt hc)
  simp only [leBytes] at value ⊢
  simp only [List.cons_append, List.nil_append, decode, value]

theorem Instr.operand_lt {i : Instr} (h : i.wellFormed = true) : ∀ v ∈ i.operands, v < operandLimit := by
  simpa only [Instr.wellFormed, List.all_eq_true, decide_eq_true_eq] using h

/-- Settles O58: the frame is cut after the row number, and each part is read back. -/
theorem decodeInvertsEncode : Obligations.DecodeInvertsEncode := by
  unfold Obligations.DecodeInvertsEncode
  intro i h
  have code := i.code_lt
  rw [encode, decode_leBytes_append i.code (by omega), decodeCall, operandsOf_flatMap (Instr.operand_lt h)]
  simp only [rebuild_code_operands]

/-- Settles O60: the decoder evaluated on each of the nine words. -/
theorem tableWordsDecodeToTheirRows : Obligations.TableWordsDecodeToTheirRows := by
  unfold Obligations.TableWordsDecodeToTheirRows
  exact ⟨rfl, rfl, rfl, rfl, rfl, rfl, rfl, rfl, rfl⟩

end Sys2Proof

/-! The round trips of the address codec (40_address_codec.md): what ENCODE and ENCODEJ put together, DECODE and DECODEJ take
apart, and the other way round. -/

namespace Sys2Proof.Machine

/-- The mask 0xF9FF of a 16-bit address clears bits 10:9 and keeps the others. -/
theorem and_F9FF {a : Nat} (h : a < 65536) : a &&& 0xF9FF = a / 2048 * 2048 + a % 512 := by
  have high : (a &&& 0xF9FF) / 2 ^ 11 = a / 2 ^ 11 % 2 ^ 5 := by
    rw [← Nat.shiftRight_eq_div_pow, Nat.shiftRight_and_distrib, Nat.shiftRight_eq_div_pow]
    exact Nat.and_two_pow_sub_one_eq_mod _ 5
  have low : (a &&& 0xF9FF) % 2 ^ 11 = a % 2 ^ 11 % 2 ^ 9 := by
    rw [Nat.and_mod_two_pow]
    exact Nat.and_two_pow_sub_one_eq_mod _ 9
  omega

/-- The selector of the jump view is the number in bits 10:8. -/
theorem jumpFields_sel_toNat {a : Nat} (h : a ≤ 65535) : (jumpFields a).sel.bits.toNat = a / 256 % 8 := by
  rw [jumpFields_eq h]
  exact BitVec.toNat_ofNat _ _

theorem jumpFields_taddr {a : Nat} (h : a ≤ 65535) : (jumpFields a).taddr = a / 2048 * 2048 + a / 16 % 16 * 16 := by
  rw [jumpFields_eq h]

theorem jumpFields_cond {a : Nat} (h : a ≤ 65535) : (jumpFields a).cond = a % 16 := by
  rw [jumpFields_eq h]

theorem encodable_iff (a : Nat) : encodable a = true ↔ a / 512 % 4 = 0 := by
  simp [encodable, slice_eq]

/-- Settles O5: both directions by the sum of ENCODE and the division of DECODE. -/
theorem addressRoundTrip : Obligations.AddressRoundTrip := by
  unfold Obligations.AddressRoundTrip
  refine ⟨fun opc am pf step cond ho hm hp hs hc => ?_, fun opc am pf step cond opc' am' pf' step' cond' a h h' => ?_,
    fun a ha => ?_⟩
  · refine ⟨_, encodeAddress_ok ho hm hp hs hc, by omega, ?_⟩
    rw [decodeAddress_ok (by omega), generalFields_eq (by omega), Except.ok.injEq, GeneralFields.mk.injEq]
    omega
  · obtain ⟨bounds, sum⟩ := encodeAddress_eq_ok h
    obtain ⟨bounds', sum'⟩ := encodeAddress_eq_ok h'
    omega
  · refine ⟨_, decodeAddress_ok (by omega), ?_⟩
    rw [generalFields_eq (by omega), and_F9FF ha]
    dsimp only
    constructor
    · rw [encodeAddress_ok (by omega) (by omega) (by omega) (by omega) (by omega), Except.ok.injEq]
      omega
    · omega

/-- Settles O6: the jump view cuts a 16-bit address into the three operands of ENCODEJ. -/
theorem jumpAddressRoundTrip : Obligations.JumpAddressRoundTrip := by
  unfold Obligations.JumpAddressRoundTrip
  refine ⟨fun taddr sel cond h h1 h2 hs hc => ?_, fun a ha => ?_⟩
  · have fits : taddr + sel * 256 + cond ≤ 65535 := by have := jumpSum_lt h h1 h2 hs hc; omega
    refine ⟨_, _, encodeJump_ok h h1 h2 hs hc, decodeJump_ok fits, ?_⟩
    rw [jumpFields_taddr fits, jumpFields_sel_toNat fits, jumpFields_cond fits]
    omega
  · have fits : a ≤ 65535 := by omega
    refine ⟨_, decodeJump_ok fits, ?_⟩
    rw [jumpFields_taddr fits, jumpFields_sel_toNat fits, jumpFields_cond fits,
      encodeJump_ok (by omega) (by omega) (by omega) (by omega) (by omega), Except.ok.injEq]
    omega

/-- Settles O7: an address of ENCODE has no term in bits 10:9, and one without them is the ENCODE of its own fields. -/
theorem encodableIsImageOfEncode : Obligations.EncodableIsImageOfEncode := by
  unfold Obligations.EncodableIsImageOfEncode
  refine fun a ha => ⟨⟨fun ⟨opc, am, pf, step, cond, h⟩ => ?_, fun h => ?_⟩, encodable_iff a⟩
  · obtain ⟨bounds, sum⟩ := encodeAddress_eq_ok h
    rw [encodable_iff]
    omega
  · rw [encodable_iff] at h
    refine ⟨a / 4096, a / 2048 % 2, a / 256 % 2, a / 16 % 16, a % 16, ?_⟩
    rw [encodeAddress_ok (by omega) (by omega) (by omega) (by omega) (by omega), Except.ok.injEq]
    omega

end Sys2Proof.Machine

/-! The layout CWL (30_encoding.md R47), CWPACK and CWUNPACK as calls (41_control_word_codec.md R73, R74), and the container's
upper byte (R76). -/

namespace Sys2Proof

/-! ## The word bits of a field -/

theorem CwField.width_pos (f : CwField) : 1 ≤ f.width := by cases f <;> decide

/-- The bits of a field run from its lowest to its highest word bit. -/
theorem Layout.mem_bits_iff_le_hi {L : Layout} {f : CwField} {k : Nat} : k ∈ L.bits f ↔ L.lo f ≤ k ∧ k ≤ L.hi f := by
  have := f.width_pos
  rw [Layout.mem_bits, Layout.hi]
  omega

/-! ## What a valid layout is (R47) -/

section

variable {L : Layout} (h : L.valid = true)

include h

theorem Layout.valid_lane_eq (f : CwField) : (L.pos f).lane = L.laneOf f.namedLane := by
  have := L.valid_iff.mp h f
  simp only [Layout.offends, Bool.or_eq_false_iff, bne_eq_false_iff_eq] at this
  obtain ⟨⟨⟨⟨-, lane⟩, -⟩, -⟩, -⟩ := this
  exact lane

theorem Layout.valid_nextStep_lo : L.nextStep.lo = 4 := by
  have := L.valid_iff.mp h .nextStep
  simp only [Layout.offends, Bool.or_eq_false_iff, beq_self_eq_true, Bool.true_and, bne_eq_false_iff_eq] at this
  obtain ⟨⟨⟨-, lo⟩, -⟩, -⟩ := this
  exact lo

/-- A named lane does not take the index of one that comes before it. -/
theorem Layout.valid_laneOf_ne {f : CwField} {n : NamedLane} (hn : n ∈ f.lanesBefore) :
    L.laneOf n ≠ (L.pos f).lane := by
  have := L.valid_iff.mp h f
  simp only [Layout.offends, Bool.or_eq_false_iff, List.any_eq_false, beq_iff_eq] at this
  obtain ⟨⟨-, lanes⟩, -⟩ := this
  exact lanes n hn

theorem Layout.valid_laneOf_injective {m n : NamedLane} (hmn : m ≠ n) : L.laneOf m ≠ L.laneOf n := by
  have sd : L.laneOf .sequencer ≠ L.laneOf .datapath := L.valid_laneOf_ne h (f := .ldIr) (by decide)
  have sc : L.laneOf .sequencer ≠ L.laneOf .control := L.valid_laneOf_ne h (f := .ldPcHi) (by decide)
  have dc : L.laneOf .datapath ≠ L.laneOf .control := L.valid_laneOf_ne h (f := .ldPcHi) (by decide)
  cases m <;> cases n
  case sequencer.datapath => exact sd
  case sequencer.control => exact sc
  case datapath.control => exact dc
  case datapath.sequencer => exact sd.symm
  case control.sequencer => exact sc.symm
  case control.datapath => exact dc.symm
  all_goals exact absurd rfl hmn

/-- Of two fields of a valid layout one lies above the other. -/
theorem Layout.valid_apart {f g : CwField} (hfg : f ≠ g) : L.hi f < L.lo g ∨ L.hi g < L.lo f := by
  have apart := Finset.disjoint_left.mp (L.valid_disjoint h hfg)
  have hf := f.width_pos
  have hg := g.width_pos
  have notLow := @apart (L.lo f)
  have notLow' := @apart (L.lo g)
  rw [Layout.mem_bits, Layout.mem_bits] at notLow notLow'
  simp only [Layout.hi]
  omega

end

/-- Two fields of a layout that lie apart in the word share no bit of a lane. -/
theorem Layout.overlap_eq_false_of_apart {L : Layout} {f g : CwField} (h : L.hi f < L.lo g ∨ L.hi g < L.lo f) :
    L.overlap f g = false := by
  have hf := f.width_pos
  have hg := g.width_pos
  simp only [Layout.hi, Layout.lo] at h
  rw [Layout.overlap, ← Bool.not_eq_true, Bool.and_eq_true, Bool.and_eq_true, beq_iff_eq, decide_eq_true_eq,
    decide_eq_true_eq]
  omega

/-- A field comes after the fields before it. -/
theorem CwField.ne_of_mem_before {f g : CwField} (h : g ∈ f.before) : f ≠ g := by
  have := List.mem_takeWhile_imp h
  exact (bne_iff_ne.mp this).symm

/-- The named lanes before a field's own are other lanes. -/
theorem CwField.ne_namedLane_of_mem_lanesBefore {f : CwField} {n : NamedLane} (h : n ∈ f.lanesBefore) :
    n ≠ f.namedLane := by
  cases f <;> revert n <;> decide

/-- Settles O15: from left to right the parts of `offends`, field by field; from right to left each part is refuted. -/
theorem layoutValidExactly : Obligations.LayoutValidExactly := by
  unfold Obligations.LayoutValidExactly
  refine fun L => ⟨fun h => ⟨fun f => ?_, fun m n => L.valid_laneOf_injective h, L.valid_nextStep_lo h,
    fun f g => L.valid_apart h⟩, fun ⟨inLane, lanes, nextStep, apart⟩ => L.valid_iff.mpr fun f => ?_⟩
  · obtain ⟨lane, bits⟩ := L.valid_bounds h f
    exact ⟨lane, bits, L.valid_lane_eq h f⟩
  · obtain ⟨lane, bits, own⟩ := inLane f
    have step : (f == .nextStep && (L.pos f).lo != 4) = false := by
      cases f
      case nextStep => simp [Layout.pos, nextStep]
      all_goals rfl
    have otherLanes : f.lanesBefore.any (fun n => L.laneOf n == (L.pos f).lane) = false := by
      rw [List.any_eq_false]
      intro n hn
      rw [own, beq_iff_eq]
      exact lanes n _ (CwField.ne_namedLane_of_mem_lanesBefore hn)
    have noOverlap : f.before.any (fun g => L.overlap f g) = false := by
      rw [List.any_eq_false]
      intro g hg
      rw [L.overlap_eq_false_of_apart (apart f g (CwField.ne_of_mem_before hg))]
      exact Bool.false_ne_true
    have inChips : ¬ Config.chips ≤ (L.pos f).lane := Nat.not_le_of_lt lane
    simp only [Layout.offends, step, otherLanes, noOverlap, Bool.or_false, Bool.or_eq_false_iff, decide_eq_false_iff_not,
      bne_eq_false_iff_eq]
    exact ⟨⟨inChips, by omega⟩, own⟩

/-- Settles O14: the fields of a valid layout cover the 24 bits and share none. -/
theorem validLayoutPartitionsTheWord : Obligations.ValidLayoutPartitionsTheWord := by
  unfold Obligations.ValidLayoutPartitionsTheWord
  refine fun L h => ⟨fun f => ?_, fun k hk => ?_⟩
  · have := f.width_pos
    refine (L.valid_exists_field_iff h _).mp ⟨f, Layout.mem_bits_iff_le_hi.mpr ⟨?_, le_rfl⟩⟩
    rw [Layout.hi]
    omega
  · obtain ⟨f, hf⟩ := (L.valid_exists_field_iff h k).mpr hk
    refine ⟨f, Layout.mem_bits_iff_le_hi.mp hf, fun g hg => ?_⟩
    by_contra hgf
    exact Finset.disjoint_left.mp (L.valid_disjoint h hgf) (Layout.mem_bits_iff_le_hi.mpr hg) hf

/-- Settles O16: the default layout evaluated at each of its nineteen fields. -/
theorem defaultLayoutPositions : Obligations.DefaultLayoutPositions := by
  unfold Obligations.DefaultLayoutPositions
  decide

end Sys2Proof

namespace Sys2Proof.Machine

/-! ## CWPACK and CWUNPACK as calls -/

theorem exec_cwpack (r : CwRecord) (s : State) :
    exec (.cwpack r) s = answer s ((packWord s.params.cwl r).map Result.word) := rfl

theorem exec_cwunpack (w : Nat) (s : State) :
    exec (.cwunpack w) s = answer s ((unpackWord s.params.cwl w).map Result.signals) := rfl

/-- CWUNPACK rejects a number that is no container value (R74). -/
theorem unpackWord_bad {w : Nat} (L : Layout) (h : 2 ^ 32 ≤ w) : unpackWord L w = .error (overlap .cw w) := by
  rw [unpackWord, if_pos (show Config.containerLimit ≤ w from h)]

/-- The loop of CWPACK raises at the first component outside its width. -/
theorem packFields_bad (L : Layout) {r : CwRecord} {before after : List CwField} {f : CwField}
    (hb : ∀ g ∈ before, r.get g < 2 ^ g.width) (hf : 2 ^ f.width ≤ r.get f) (w : Nat) :
    packFields L r (before ++ f :: after) w = .error (.fieldOverlap (.field f) (.num (r.get f))) := by
  induction before generalizing w with
  | nil => rw [List.nil_append, packFields, if_neg (by omega)]
  | cons g before ih =>
    obtain ⟨hg, hb⟩ := List.forall_mem_cons.mp hb
    rw [List.cons_append, packFields, if_pos hg, ih hb]

/-- Settles O11: the loop adds the fields of a legal record, and stops at the first that is not legal. -/
theorem cwpackSumsFieldsOrFirstFault : Obligations.CwpackSumsFieldsOrFirstFault := by
  unfold Obligations.CwpackSumsFieldsOrFirstFault
  refine fun r s => ⟨fun hr => ?_, fun before f after split hb hf => ?_⟩
  · rw [exec_cwpack, packWord_ok s.params.cwl hr, answer_map_ok]
    rfl
  · rw [exec_cwpack, packWord, split, packFields_bad s.params.cwl hb hf]
    rfl

/-- Settles O12: below 2^32 the record of the fields, else the fault of the operand check (R74). -/
theorem cwunpackReturnsEveryField : Obligations.CwunpackReturnsEveryField := by
  unfold Obligations.CwunpackReturnsEveryField
  refine fun w s => ⟨fun hw => ⟨wordSignals s.params.cwl w, ?_, wordSignals_get s.params.cwl w⟩, fun hw => ?_⟩
  · rw [exec_cwunpack, unpackWord_ok s.params.cwl hw, answer_map_ok]
  · rw [exec_cwunpack, unpackWord_bad s.params.cwl hw, answer_map_error]

/-! ## The container's upper byte (R76) -/

/-- A lane lies in the low 24 bits of the container. -/
theorem lane_mod_word (w : Nat) {c : Nat} (hc : c < Config.chips) :
    w % 2 ^ 24 / 2 ^ (8 * c) % 256 = w / 2 ^ (8 * c) % 256 := by
  have hc' : c = 0 ∨ c = 1 ∨ c = 2 := by simp only [Config.chips] at hc; omega
  rcases hc' with rfl | rfl | rfl <;> omega

theorem laneByte_mod_word {w : Nat} (hw : w < 2 ^ 32) (c : Nat) : laneByte (w % 2 ^ 24) c = laneByte w c := by
  have hw' : w % 2 ^ 24 < 2 ^ 32 := by omega
  by_cases hc : c < Config.chips
  · rw [laneByte_ok hw hc, laneByte_ok hw' hc, lane_mod_word w hc]
  · rw [laneByte_bad_lane hw (Nat.le_of_not_lt hc), laneByte_bad_lane hw' (Nat.le_of_not_lt hc)]

theorem laneOfWord_mod_word (w : Nat) {c : Nat} (hc : c < Config.chips) : laneOfWord (w % 2 ^ 24) c = laneOfWord w c := by
  rw [← laneOfWord_eq, ← laneOfWord_eq, lane_mod_word w hc]

/-- EMIT of a container value is EMIT of its low 24 bits. -/
theorem emit_mod_word (p : Params) (a : Nat) {w : Nat} (hw : w < 2 ^ 32) (b : Block) :
    emit p a (w % 2 ^ 24) b = emit p a w b := by
  have lanes : placeLane p a (w % 2 ^ 24) = placeLane p a w := by
    funext c t
    unfold placeLane
    rw [laneByte_mod_word hw]
  rw [emit, emit, lanes]

/-- Under a valid layout no field reads above bit 23. -/
theorem wordSignals_mod_word {L : Layout} (h : L.valid = true) (w : Nat) : wordSignals L (w % 2 ^ 24) = wordSignals L w := by
  refine CwRecord.ext_get fun f => Nat.eq_of_testBit_eq fun i => ?_
  rw [wordSignals_get, wordSignals_get, Nat.testBit_mod_two_pow, Nat.testBit_mod_two_pow, Nat.testBit_div_two_pow,
    Nat.testBit_div_two_pow, Nat.testBit_mod_two_pow]
  by_cases hi : i < f.width
  · have low : i + L.lo f < 24 := (L.valid_exists_field_iff h _).mp ⟨f, Layout.mem_bits.mpr (by omega)⟩
    rw [decide_eq_true low, Bool.true_and]
  · rw [decide_eq_false hi, Bool.false_and, Bool.false_and]

/-- VALIDATE reports a fault on parameters that break a constraint. -/
theorem validate_eq_some_of_not_meets {p : Params} (h : ¬ p.meetsConstraints) : ∃ f, validate p = some f :=
  Option.ne_none_iff_exists'.mp fun no => h ((validate_eq_none_iff p).mp no)

/-- Settles O17: a lane, and so an EMIT, and under a valid layout a field take nothing from bits 31:24; and a word of a
parameter is below 2^24 where VALIDATE passes. -/
theorem containerUpperByteIsIgnored : Obligations.ContainerUpperByteIsIgnored := by
  unfold Obligations.ContainerUpperByteIsIgnored
  refine ⟨fun w c s hw => ?_, fun w a s hw _ => ?_, fun w s hw h => ?_, fun p wide => ?_⟩
  · rw [exec_lanebyte, exec_lanebyte, laneByte_mod_word hw]
  · rw [exec_emit, exec_emit, emit_mod_word s.params a hw]
  · rw [exec_cwunpack, exec_cwunpack, unpackWord_ok _ hw, unpackWord_ok _ (by omega), wordSignals_mod_word h]
  · refine validate_eq_some_of_not_meets fun ⟨_, htable, htemplate, _, hcontinue, habort, _⟩ => ?_
    obtain wide | wide | ⟨el, hel, e, hparse, wide⟩ | ⟨el, hel, t, hparse, wide⟩ := wide
    · omega
    · omega
    · obtain ⟨e', hparse', -, -, -, -, -, hcw⟩ := htable el hel
      rw [Option.some.inj (hparse.symm.trans hparse')] at wide
      omega
    · obtain ⟨t', hparse', -, -, -, hcw⟩ := htemplate el hel
      rw [Option.some.inj (hparse.symm.trans hparse')] at wide
      omega

end Sys2Proof.Machine

/-! The rows of the table that read an address or a control word (log 4): each is one operand check and one reading. -/

namespace Sys2Proof.Machine

/-! ## The operand checks -/

/-- A reading of a 16-bit address returns its value. -/
theorem readAddress_ok {a : Nat} (h : a ≤ 65535) (v : Result) (s : State) :
    readAddress a v s = .next { s with result := v } := by
  rw [readAddress, if_neg (by omega)]
  rfl

/-- A reading of any other number returns FieldOverlap of the address. -/
theorem readAddress_bad {a : Nat} (h : 65535 < a) (v : Result) (s : State) :
    readAddress a v s = .next { s with result := .fault (.fieldOverlap (.operand .address) (.num a)) } := by
  rw [readAddress, if_pos h]
  rfl

/-- A reading of a container value returns its value. -/
theorem readWord_ok {w : Nat} (h : w < 2 ^ 32) (v : Result) (s : State) :
    readWord w v s = .next { s with result := v } := by
  rw [readWord, if_neg (by simp only [Config.containerLimit]; omega)]
  rfl

/-- A reading of any other number returns FieldOverlap of the word. -/
theorem readWord_bad {w : Nat} (h : 2 ^ 32 ≤ w) (v : Result) (s : State) :
    readWord w v s = .next { s with result := .fault (.fieldOverlap (.operand .cw) (.num w)) } := by
  rw [readWord, if_pos (show Config.containerLimit ≤ w from h)]
  rfl

/-! ## The readings -/

/-- A field of a word is its bits, by division. -/
theorem fieldOf_eq (L : Layout) (f : CwField) (w : Nat) : fieldOf L f w = w / 2 ^ L.lo f % 2 ^ f.width := by
  rw [← wordSignals_get]
  cases f <;> rfl

theorem aluReading_eq (L : Layout) (op : AluOp) (w : Nat) :
    aluReading L op w = .alu op (decide (w / 2 ^ L.lo .aluOp % 8 = aluCode op)) := by
  rw [aluReading, fieldOf_eq]
  rfl

/-- A status bit of an address is set when its address bit is 1 (30_encoding.md R44). -/
theorem statusOf_eq (b : StatusBit) (a : Nat) : statusOf b a = decide (a / 2 ^ statusIndex b % 2 = 1) := by
  rw [statusOf, bitOf, Nat.testBit_eq_decide_div_mod_eq]

theorem selectorReading_eq (v a : Nat) :
    selectorReading v a = .selector (decide (a / 256 % 8 = v)) (v.testBit 0) (v.testBit 1) (v.testBit 2) := by
  simp only [selectorReading, slice_sel, JumpSelector.ofNat, JumpSelector.testsCarry, JumpSelector.testsNegative,
    JumpSelector.testsZero, BitVec.getLsbD_ofNat, beq_eq_decide]
  rfl

/-- An address lies in the jump family when its bits 15:11 are those of JUMP_BASE (30_encoding.md R43). -/
theorem inJumpFamily_eq (p : Params) {a : Nat} (h : a ≤ 65535) :
    p.inJumpFamily a = decide (a / 2048 = p.jumpBase / 2048 % 32) := by
  have fits : a / 2048 % 32 = a / 2048 := Nat.mod_eq_of_lt (by omega)
  simp [Params.inJumpFamily, slice_eq, fits, beq_eq_decide]

/-! ## The statements -/

/-- Settles O46: both rows read the fields of their view, and bits 15:11 decide between them. -/
theorem formatRowsTellWhichFormatApplies : Obligations.FormatRowsTellWhichFormatApplies := by
  unfold Obligations.FormatRowsTellWhichFormatApplies
  refine fun a s => ⟨fun h => ⟨(readAddress_ok h _ s).trans ?_, (readAddress_ok h _ s).trans ?_⟩,
    fun h => ⟨readAddress_bad h _ s, readAddress_bad h _ s⟩⟩
  · rw [inJumpFamily_eq s.params h, generalFields_eq h, decide_not]
  · rw [inJumpFamily_eq s.params h, jumpFields_eq h]

/-- Settles O45: each row is its slice of the address by division. -/
theorem addressFieldRowsReadTheirBits : Obligations.AddressFieldRowsReadTheirBits := by
  unfold Obligations.AddressFieldRowsReadTheirBits
  refine ⟨fun a s h => ?_, fun a s h => ⟨readAddress_bad h _ s, readAddress_bad h _ s, readAddress_bad h _ s,
    readAddress_bad h _ s, readAddress_bad h _ s, readAddress_bad h _ s, readAddress_bad h _ s⟩⟩
  have general (field : GeneralFields → Nat) : readAddress a (.field (field (generalFields a))) s =
      .next { s with result := .field (field ⟨a / 4096, a / 2048 % 2, a / 512 % 4, a / 256 % 2, a / 16 % 16, a % 16⟩) } := by
    rw [readAddress_ok h, generalFields_eq h]
  refine ⟨general (·.opc), general (·.am), general (·.rsv), general (·.pf), general (·.step), general (·.cond), ?_⟩
  exact (readAddress_ok h _ s).trans (by rw [jumpFields_sel_toNat h])

/-- Settles O47: each row is one bit of the address. -/
theorem conditionBitRowsReadTheNibble : Obligations.ConditionBitRowsReadTheNibble := by
  unfold Obligations.ConditionBitRowsReadTheNibble
  refine ⟨fun a s h => ?_, fun a s h => ⟨readAddress_bad h _ s, readAddress_bad h _ s, readAddress_bad h _ s,
    readAddress_bad h _ s⟩⟩
  have bit (b : StatusBit) : readAddress a (.status b (statusOf b a)) s =
      .next { s with result := .status b (decide (a / 2 ^ statusIndex b % 2 = 1)) } := by
    rw [readAddress_ok h, statusOf_eq]
  have bit0 := bit .interruptPending
  rw [statusIndex, Nat.pow_zero, Nat.div_one] at bit0
  exact ⟨bit0, bit .carry, bit .negative, bit .zero⟩

/-- Settles O48: each row compares bits 10:8 with its value and returns the bits of the value. -/
theorem selectorRowsNameTheTestedFlags : Obligations.SelectorRowsNameTheTestedFlags := by
  unfold Obligations.SelectorRowsNameTheTestedFlags
  refine ⟨fun a s h => ?_, fun a s h => ⟨readAddress_bad h _ s, readAddress_bad h _ s, readAddress_bad h _ s,
    readAddress_bad h _ s, readAddress_bad h _ s, readAddress_bad h _ s, readAddress_bad h _ s, readAddress_bad h _ s⟩⟩
  have row (v : Nat) : readAddress a (selectorReading v a) s = .next { s with
      result := .selector (decide (a / 256 % 8 = v)) (v.testBit 0) (v.testBit 1) (v.testBit 2) } := by
    rw [readAddress_ok h, selectorReading_eq]
  exact ⟨row 0, row 1, row 2, row 3, row 4, row 5, row 6, row 7⟩

/-- Settles O49: each row is its field of the word at the position the layout gives. -/
theorem controlFieldRowsReadTheLayout : Obligations.ControlFieldRowsReadTheLayout := by
  unfold Obligations.ControlFieldRowsReadTheLayout
  constructor
  · intro w s h
    have row (f : CwField) : readWord w (.field (fieldOf s.params.cwl f w)) s =
        .next { s with result := .field (w / 2 ^ s.params.cwl.lo f % 2 ^ f.width) } := by
      rw [readWord_ok h, fieldOf_eq]
    exact ⟨row .nextStep, row .ldAddrHi, row .ldAddrLo, row .memOe, row .memWe, row .ldIr, row .ldA, row .ldB, row .ldRes,
      row .resOe, row .aluOp, row .ldPcHi, row .ldPcLo, row .pcHiOe, row .pcLoOe, row .incPc, row .ldIo, row .ioOe,
      row .ioWe⟩
  · intro w s h
    have row (f : CwField) := readWord_bad h (.field (fieldOf s.params.cwl f w)) s
    exact ⟨row .nextStep, row .ldAddrHi, row .ldAddrLo, row .memOe, row .memWe, row .ldIr, row .ldA, row .ldB, row .ldRes,
      row .resOe, row .aluOp, row .ldPcHi, row .ldPcLo, row .pcHiOe, row .pcLoOe, row .incPc, row .ldIo, row .ioOe,
      row .ioWe⟩

/-- Format CW joins three LANEBYTEs. -/
theorem exec_formatCw (w : Nat) (s : State) : exec (.formatCw w) s = answer s (do
    let q ← laneByte w (s.params.cwl.laneOf .sequencer)
    let d ← laneByte w (s.params.cwl.laneOf .datapath)
    let c ← laneByte w (s.params.cwl.laneOf .control)
    return .lanes q d c) := rfl

/-- Settles O50: the ALU rows compare the field ALU_OP with their code, and the row CW is LANEBYTE of the three named
lanes. -/
theorem aluRowsAndFormatRowReadTheWord : Obligations.AluRowsAndFormatRowReadTheWord := by
  unfold Obligations.AluRowsAndFormatRowReadTheWord
  refine ⟨fun w s h => ?_, fun w s h hq hd hc => ?_, fun w s h => ?_⟩
  · have row (op : AluOp) : readWord w (aluReading s.params.cwl op w) s =
        .next { s with result := .alu op (decide (w / 2 ^ s.params.cwl.lo .aluOp % 8 = aluCode op)) } := by
      rw [readWord_ok h, aluReading_eq]
    exact ⟨row .nop, row .shift, row .add, row .sub, row .inv, row .xor, row .or, row .and⟩
  · rw [exec_formatCw, laneByte_ok h hq, laneByte_ok h hd, laneByte_ok h hc]
    rfl
  · have row (op : AluOp) := readWord_bad h (aluReading s.params.cwl op w) s
    refine ⟨row .nop, row .shift, row .add, row .sub, row .inv, row .xor, row .or, row .and, ?_⟩
    rw [exec_formatCw, laneByte_bad_word _ h]
    rfl

end Sys2Proof.Machine

/-! The store and the read path as calls: PLACE and IMGREAD (20_memory.md R27 to R29), EMIT (42_table_expansion.md R80) lane by
lane on any medium, and LOOKUP (44_generate_and_lookup.md R102). -/

namespace Sys2Proof.Machine

/-! ## PLACE -/

theorem exec_place_of_ok {s : State} {a c v : Nat} {b : Block} (h : place s.params a c v s.toBlock = .ok b) :
    exec (.place a c v) s = .next ((s.withBlock b).returns .done) := by
  rw [exec_place, h]
  rfl

theorem exec_place_of_error {s : State} {a c v : Nat} {f : SpecFault} (h : place s.params a c v s.toBlock = .error f) :
    exec (.place a c v) s = .next (s.takeFault f) := by
  rw [exec_place, h]
  rfl

/-- Settles O18: the two states PLACE can leave on operands in range, and its fault on others. -/
theorem placeStoresOneByteOrLogs : Obligations.PlaceStoresOneByteOrLogs := by
  unfold Obligations.PlaceStoresOneByteOrLogs
  refine fun a c v s => ⟨fun ha hc hv hok => ?_, fun ha hc hv hok => ?_, fun hbad => ?_⟩
  · refine ⟨_, exec_place_of_ok (place_accepted ha hc hv hok), rfl, by simp, ⟨rfl, rfl, rfl⟩, by simp, ?_,
      fun d x hd other => ?_⟩
    · simp [Block.setCell_cell _ hc hc]
    · have : ¬ (d = c ∧ x = a) := by tauto
      simp [Block.setCell_cell _ hc hd, this]
  · exact ⟨_, exec_place_of_ok (place_rejected ha hc hv hok), rfl, rfl, ⟨rfl, rfl, rfl⟩, rfl, fun d x _ => by simp⟩
  · have outOfRange : ¬ (a < Config.imageSize ∧ c < Config.chips ∧ v < Config.laneLimit) := by
      simp only [Config.imageSize, Config.chips, Config.laneLimit]
      omega
    exact exec_place_of_error (place_bad s.params s.toBlock outOfRange)

/-! ## Reads of a finished run -/

theorem exec_imgread {s : State} {c a : Nat} (hc : c < Config.chips) (ha : a < Config.imageSize) (hs : s.finished = true) :
    exec (.imgread c a) s = .next (s.returns (.imageByte (s.toBlock.finalByte s.params c a))) := by
  show execImgread c a s = _
  rw [execImgread, if_pos ⟨hc, ha⟩, if_pos hs]

theorem exec_imgread_outside {c a : Nat} (h : 3 ≤ c ∨ 65536 ≤ a) (s : State) :
    exec (.imgread c a) s = .fault (.noSuchCell c a) := by
  show execImgread c a s = _
  rw [execImgread, if_neg]
  simp only [Config.chips, Config.imageSize]
  omega

/-- Settles O19: the byte is read off the block and the fill, which the read leaves as they are. -/
theorem imgreadReturnsFinishedByte : Obligations.ImgreadReturnsFinishedByte := by
  unfold Obligations.ImgreadReturnsFinishedByte
  refine fun c a s => ⟨fun hc ha hs => ⟨_, rfl, exec_imgread hc ha hs, ?_⟩,
    fun hc ha hs => exec_imgread_unfinished hc ha hs, fun h => exec_imgread_outside h s⟩
  exact exec_imgread (s := s.returns _) hc ha hs

/-- LOOKUP rejects a number that is no 16-bit address, whether or not a run has finished (log 19). -/
theorem exec_lookup_bad {a : Nat} (h : 65535 < a) (s : State) : exec (.lookup a) s = .next (s.takeFault (overlap .address a)) := by
  show execLookup a s = _
  rw [execLookup, if_pos h]

theorem Block.finalByte_lt_of_fill {p : Params} {c : Nat} (h : p.fill c < 256) (b : Block) (a : Nat) :
    b.finalByte p c a < 256 := by
  unfold Block.finalByte
  split
  · next v _ => exact v.isLt
  · exact h

/-- Settles O20: the three final bytes are below 256, so LANEJOIN adds them. -/
theorem lookupJoinsTheThreeImages : Obligations.LookupJoinsTheThreeImages := by
  unfold Obligations.LookupJoinsTheThreeImages
  refine fun a s => ⟨fun h => exec_lookup_bad h s, fun ha hs => exec_lookup_unfinished (by omega) hs,
    fun ha hs h0 h1 h2 => exec_lookup ha hs ?_⟩
  exact laneJoin_ok (Block.finalByte_lt_of_fill (c := 0) h0 _ a) (Block.finalByte_lt_of_fill (c := 1) h1 _ a)
    (Block.finalByte_lt_of_fill (c := 2) h2 _ a)

/-- An address that holds a 24-bit word reads as that word, whatever the fill. -/
theorem lookupWord_of_holdsWord (p : Params) {b : Block} {a w : Nat} (hw : w < 2 ^ 24) (h : b.holdsWord a w) :
    lookupWord p b a = .ok w := by
  have byte (c : Nat) (hc : c < Config.chips) : b.finalByte p c a = w / 2 ^ (8 * c) % 256 := by
    rw [Block.finalByte, h c hc]
    exact BitVec.toNat_ofNat _ _
  rw [lookupWord, byte 0 (by decide), byte 1 (by decide), byte 2 (by decide),
    laneJoin_ok (by omega) (by omega) (by omega), Except.ok.injEq]
  omega

/-! ## EMIT lane by lane -/

/-- The block after the placement of lane c of a word, as `placeLane_legal` states it. -/
def placedLane (p : Params) (a w c : Nat) (b : Block) : Block :=
  if p.placeOK c a (laneOfWord w c).toNat b.placed then (b.setCell c a (laneOfWord w c)).countPlacement
  else (b.log ⟨a, c⟩).countPlacement

@[simp] theorem placedLane_placed (p : Params) (a w c : Nat) (b : Block) : (placedLane p a w c b).placed = b.placed + 1 := by
  unfold placedLane
  split <;> simp

theorem placedLane_diag (p : Params) (a w c : Nat) (b : Block) :
    (placedLane p a w c b).diag =
      b.diag ++ if !p.placeOK c a (laneOfWord w c).toNat b.placed then [⟨a, c⟩] else [] := by
  unfold placedLane
  cases p.placeOK c a (laneOfWord w c).toNat b.placed <;> simp

theorem placedLane_cell_same (p : Params) (a w : Nat) {c : Nat} (hc : c < Config.chips) (b : Block) :
    (placedLane p a w c b).cell c a =
      if p.placeOK c a (laneOfWord w c).toNat b.placed then some (laneOfWord w c) else b.cell c a := by
  unfold placedLane
  split <;> simp [Block.setCell_cell _ hc hc]

theorem placedLane_cell_other (p : Params) (a w : Nat) {c d : Nat} (hc : c < Config.chips) (hd : d < Config.chips)
    (hdc : d ≠ c) (x : Nat) (b : Block) : (placedLane p a w c b).cell d x = b.cell d x := by
  unfold placedLane
  split <;> simp [Block.setCell_cell _ hc hd, hdc]

theorem placeLane_eq_placedLane (p : Params) {a w c : Nat} (ha : a < Config.imageSize) (hw : w < 2 ^ 32)
    (hc : c < Config.chips) (b : Block) : placeLane p a w c b = (placedLane p a w c b, .completed) :=
  placeLane_legal p ha hw hc b

/-- EMIT on legal operands is the three lanes in order. -/
theorem emit_eq_placedLanes (p : Params) {a w : Nat} (ha : a < Config.imageSize) (hw : w < 2 ^ 32) (b : Block) :
    emit p a w b = (placedLane p a w 2 (placedLane p a w 1 (placedLane p a w 0 b)), .completed) := by
  have lane {c : Nat} (hc : c < Config.chips) := placeLane_eq_placedLane p ha hw hc
  rw [emit, forEach_cons, lane (by decide), andThen_completed, forEach_cons, lane (by decide), andThen_completed,
    forEach_singleton, lane (by decide)]

theorem emit_placed (p : Params) {a w : Nat} (ha : a < Config.imageSize) (hw : w < 2 ^ 32) (b : Block) :
    (emit p a w b).1.placed = b.placed + 3 := by
  simp [emit_eq_placedLanes p ha hw]

/-- EMIT leaves in each cell of its address the lane where the medium accepts it, and the old value where it does not. -/
theorem emit_cell (p : Params) {a w : Nat} (ha : a < Config.imageSize) (hw : w < 2 ^ 32) (b : Block) {c : Nat}
    (hc : c < Config.chips) : (emit p a w b).1.cell c a =
      if p.placeOK c a (laneOfWord w c).toNat (b.placed + c) then some (laneOfWord w c) else b.cell c a := by
  have h0 : 0 < Config.chips := by decide
  have h1 : 1 < Config.chips := by decide
  have h2 : 2 < Config.chips := by decide
  have hc' : c = 0 ∨ c = 1 ∨ c = 2 := by simp only [Config.chips] at hc; omega
  rw [emit_eq_placedLanes p ha hw]
  obtain rfl | rfl | rfl := hc'
  · rw [placedLane_cell_other p a w h2 h0 (by decide), placedLane_cell_other p a w h1 h0 (by decide),
      placedLane_cell_same p a w h0, Nat.add_zero]
  · rw [placedLane_cell_other p a w h2 h1 (by decide), placedLane_cell_same p a w h1,
      placedLane_cell_other p a w h0 h1 (by decide), placedLane_placed]
  · rw [placedLane_cell_same p a w h2, placedLane_cell_other p a w h1 h2 (by decide),
      placedLane_cell_other p a w h0 h2 (by decide), placedLane_placed, placedLane_placed]

theorem map_filter_cons {α β : Type} (f : α → Bool) (g : α → β) (x : α) (xs : List α) :
    ((x :: xs).filter f).map g = (if f x then [g x] else []) ++ (xs.filter f).map g := by
  cases h : f x <;> simp [h]

/-- EMIT records the rejected lanes in order. -/
theorem emit_diag (p : Params) {a w : Nat} (ha : a < Config.imageSize) (hw : w < 2 ^ 32) (b : Block) :
    (emit p a w b).1.diag = b.diag ++ (([0, 1, 2].filter fun c =>
      !p.placeOK c a (laneOfWord w c).toNat (b.placed + c)).map fun c => ⟨a, c⟩) := by
  simp only [emit_eq_placedLanes p ha hw, placedLane_diag, placedLane_placed, map_filter_cons, List.filter_nil, List.map_nil,
    List.append_nil, List.append_assoc, Nat.add_zero]

/-! ## Where a loop stops -/

/-- A loop whose first body does not complete ends as that body does. -/
theorem forEach_cons_of_stop {α : Type} {body : α → Block → Block × Ending} {x : α} {b u : Block} {e : Ending}
    (h : body x b = (u, e)) (stop : e ≠ .completed) (xs : List α) : forEach body (x :: xs) b = (u, e) := by
  rw [forEach_cons, h]
  cases e with
  | completed => exact absurd rfl stop
  | raised f => rfl
  | malformed l => rfl

theorem emit_bad_word (p : Params) (a : Nat) {w : Nat} (hw : 2 ^ 32 ≤ w) (b : Block) :
    emit p a w b = (b, .raised (overlap .cw w)) := by
  refine forEach_cons_of_stop ?_ (by simp) [1, 2]
  rw [placeLane, laneByte_bad_word 0 hw]

theorem emit_bad_address (p : Params) {a w : Nat} (hw : w < 2 ^ 32) (ha : 65536 ≤ a) (b : Block) :
    emit p a w b = (b, .raised (.fieldOverlap (.operand .place) (.triple a 0 (w % 256)))) := by
  have lane0 : laneByte w 0 = .ok (w % 256) := by simpa using laneByte_ok hw (c := 0) (by decide)
  have outside : ¬ (a < Config.imageSize ∧ 0 < Config.chips ∧ w % 256 < Config.laneLimit) := by
    simp only [Config.imageSize]
    omega
  refine forEach_cons_of_stop ?_ (by simp) [1, 2]
  simp only [placeLane, lane0, place_bad p b outside]

/-- Settles O21: the three lanes one by one, the frame of EMIT, and the two faults raised before any placement. -/
theorem emitStoresThreeLanes : Obligations.EmitStoresThreeLanes := by
  unfold Obligations.EmitStoresThreeLanes
  refine fun a w s => ⟨fun ha hw => ?_, fun hw => ?_, fun hw ha => ?_⟩
  · have cells (c : Nat) (hc : c < Config.chips) := emit_cell s.params ha hw s.toBlock hc
    refine ⟨_, settle_completed s (emit_completed s.params ha hw s.toBlock), rfl, emit_placed s.params ha hw s.toBlock,
      ⟨rfl, rfl, rfl⟩, fun c b hc hb => emit_other s.params s.toBlock hc hb, cells, emit_diag s.params ha hw s.toBlock,
      fun accepted hw24 hs => ?_⟩
    have holds : (emit s.params a w s.toBlock).1.holdsWord a w := fun c hc =>
      (cells c hc).trans (if_pos (accepted c hc))
    exact exec_lookup (by omega) hs (lookupWord_of_holdsWord s.params hw24 holds)
  · rw [exec_emit, emit_bad_word s.params a hw]
    rfl
  · rw [exec_emit, emit_bad_address s.params hw ha]
    rfl

end Sys2Proof.Machine

/-! A call that is a list of EMITs (42_table_expansion.md R80 to R83, 43_jump_expander.md R90, R94): what it answers, counts,
records and leaves, once for every list. EXPAND.WILD, EXPAND.FIXED, EXPAND.TABLE, JSEQ, JDEC and the decision cells are each
such a list. -/

namespace Sys2Proof.Machine

/-! ## Lists of EMITs of container values -/

/-- Every EMIT of a list goes to one of the 65536 addresses with a container value. -/
def EmitsLegal (es : List (Nat × Nat)) : Prop := ∀ e ∈ es, e.1 < Config.imageSize ∧ e.2 < 2 ^ 32

theorem EmitsInRange.legal {es : List (Nat × Nat)} (h : EmitsInRange es) : EmitsLegal es := fun e he =>
  ⟨(h e he).1, (h e he).2.trans (by decide)⟩

/-- An EMIT without the container's upper byte. -/
def cutWord (e : Nat × Nat) : Nat × Nat := (e.1, e.2 % 2 ^ 24)

/-- The container's upper byte is ignored (41_control_word_codec.md R76), so the EMITs of container values are EMITs of
24-bit words. -/
theorem emitAll_eq_cut (p : Params) {es : List (Nat × Nat)} (h : EmitsLegal es) (b : Block) :
    emitAll p es b = emitAll p (es.map cutWord) b :=
  forEach_eq_map (fun e he t => (emit_mod_word p e.1 (h e he).2 t).symm) b

theorem EmitsLegal.cut {es : List (Nat × Nat)} (h : EmitsLegal es) : EmitsInRange (es.map cutWord) := by
  intro x hx
  obtain ⟨e, he, rfl⟩ := List.mem_map.mp hx
  exact ⟨(h e he).1, Nat.mod_lt _ (by decide)⟩

theorem lastEmitted_cut (es : List (Nat × Nat)) (a : Nat) :
    lastEmitted (es.map cutWord) a = (lastEmitted es a).map (· % 2 ^ 24) := by
  simp only [lastEmitted, List.filter_map, List.getLast?_map, Option.map_map]
  rfl

/-- EMITs in range count three placements each, whatever the medium rejects. -/
theorem emitAll_placed (p : Params) {es : List (Nat × Nat)} (h : EmitsInRange es) (b : Block) :
    (emitAll p es b).1.placed = b.placed + 3 * es.length := by
  induction es generalizing b with
  | nil => rfl
  | cons e es ih =>
    obtain ⟨ha, hw⟩ := h e (List.mem_cons_self ..)
    rw [emitAll_cons p h, ih (fun x hx => h x (List.mem_cons_of_mem _ hx)), emit_placed p ha (hw.trans (by decide)),
      List.length_cons]
    omega

/-- A list of EMITs leaves every cell of an address that none of them goes to. -/
theorem emitAll_other (p : Params) {es : List (Nat × Nat)} {a : Nat} (h : ∀ e ∈ es, e.1 ≠ a) {c : Nat}
    (hc : c < Config.chips) (b : Block) : (emitAll p es b).1.cell c a = b.cell c a :=
  forEach_rel (R := fun b t => t.cell c a = b.cell c a) (fun _ => rfl) (fun h k => k.trans h)
    (fun e he t => emit_other p t hc (h e he).symm) b

/-! ## The last word at an address -/

theorem lastEmitted_eq_none_iff {es : List (Nat × Nat)} {a : Nat} : lastEmitted es a = none ↔ ∀ e ∈ es, e.1 ≠ a := by
  simp [lastEmitted]

/-- Where every EMIT to an address has the same word, that word is the last. -/
theorem lastEmitted_eq_some {es : List (Nat × Nat)} {a w : Nat} (hmem : (a, w) ∈ es)
    (h : ∀ e ∈ es, e.1 = a → e.2 = w) : lastEmitted es a = some w := by
  cases hl : lastEmitted es a with
  | none => exact absurd rfl (lastEmitted_eq_none_iff.mp hl _ hmem)
  | some v => exact congrArg some (h (a, v) (mem_of_lastEmitted hl) rfl)

/-- The last element that passes a filter is the one after which none passes. -/
theorem getLast?_filter_append_cons {α : Type} {f : α → Bool} {x : α} (before : List α) {after : List α} (hx : f x = true)
    (ha : ∀ y ∈ after, f y = false) : ((before ++ x :: after).filter f).getLast? = some x := by
  have noneAfter : after.filter f = [] := List.filter_eq_nil_iff.mpr fun y hy => by simp [ha y hy]
  rw [List.filter_append, List.filter_cons_of_pos hx, noneAfter, List.getLast?_concat]

/-! ## What a call that is a list of EMITs answers -/

/-- Everything a call leaves that is a list of EMITs of container values: on any medium the count, the frame and the old
records, and on an accepting one each lane of the last word at each address. -/
structure Emitted (s : State) (es : List (Nat × Nat)) (t : State) : Prop where
  result : t.result = .done
  placed : t.placed = s.placed + 3 * es.length
  control : s.sameControl t
  diag : s.diag <+: t.diag
  outside : s.sameCellsOutside t fun a => ∃ e ∈ es, e.1 = a
  accepted : s.params.acceptsAll → t.diag = s.diag ∧ ∀ c a, c < Config.chips →
    t.cell c a = ((lastEmitted es a).map (laneOfWord · c)).or (s.cell c a)

/-- A list of EMITs of container values runs to its end on any medium. -/
theorem settle_emitAll (s : State) {es : List (Nat × Nat)} (h : EmitsLegal es) :
    ∃ t, settle s (emitAll s.params es s.toBlock) = .next t ∧ Emitted s es t := by
  obtain ⟨records, diag, -⟩ := (forEach_placements (fun e _ t => emit_placements s.params e.1 e.2 t) s.toBlock :
    Placements s.toBlock (emitAll s.params es s.toBlock).1).diag
  have outside (c a : Nat) (hc : c < Config.chips) (ha : ¬ ∃ e ∈ es, e.1 = a) :
      (emitAll s.params es s.toBlock).1.cell c a = s.cell c a :=
    emitAll_other s.params (fun e he hea => ha ⟨e, he, hea⟩) hc s.toBlock
  have completed := emitAll_completed s.params h.cut s.toBlock
  have placed := emitAll_placed s.params h.cut s.toBlock
  rw [← emitAll_eq_cut s.params h] at completed placed
  refine ⟨_, settle_completed s completed, rfl, ?_, ⟨rfl, rfl, rfl⟩, ⟨records, diag.symm⟩, outside, fun hp => ?_⟩
  · rwa [List.length_map] at placed
  · obtain ⟨noRecord, cells⟩ := emitAll_accepted hp h.cut s.toBlock
    rw [← emitAll_eq_cut s.params h] at noRecord cells
    refine ⟨noRecord, fun c a hc => (cells c a hc).trans ?_⟩
    rw [lastEmitted_cut, Option.map_map]
    congr 2
    funext w
    exact laneOfWord_mod_word w hc

section

variable {s t : State} {es : List (Nat × Nat)} (h : Emitted s es t)

include h

theorem Emitted.params : t.params = s.params := h.control.2.1

/-- On an accepting medium an address holds the last word emitted to it. -/
theorem Emitted.holdsWord (hp : s.params.acceptsAll) {a w : Nat} (last : lastEmitted es a = some w) :
    t.holdsWord a w := fun c hc => by
  rw [(h.accepted hp).2 c a hc, last]
  rfl

/-- An address that no EMIT goes to holds what it held. -/
theorem Emitted.keeps_holdsWord {a w : Nat} (elsewhere : ∀ e ∈ es, e.1 ≠ a) (held : s.holdsWord a w) : t.holdsWord a w :=
  fun c hc => (h.outside c a hc fun ⟨e, he, hea⟩ => elsewhere e he hea).trans (held c hc)

end

/-! ## EXPAND.WILD and EXPAND.FIXED -/

/-- The EMITs of one row: the sixteen nibbles, ascending (42_table_expansion.md R82). -/
def rowEmits (base cw : Nat) : List (Nat × Nat) := nibbles.map fun n => (base + n, cw)

theorem mem_rowEmits {base cw : Nat} {e : Nat × Nat} : e ∈ rowEmits base cw ↔ ∃ n, n ≤ 15 ∧ e = (base + n, cw) := by
  simp only [rowEmits, List.mem_map, mem_nibbles, eq_comm]

theorem lastEmitted_rowEmits (base cw : Nat) {n : Nat} (hn : n ≤ 15) : lastEmitted (rowEmits base cw) (base + n) = some cw :=
  lastEmitted_eq_some (mem_rowEmits.mpr ⟨n, hn, rfl⟩) fun e he _ => by
    obtain ⟨m, -, rfl⟩ := mem_rowEmits.mp he
    rfl

theorem rowEmits_legal {opc am pf step cw : Nat} (ho : opc ≤ 15) (hm : am ≤ 1) (hp : pf ≤ 1) (hs : step ≤ 15)
    (hw : cw < 2 ^ 32) : EmitsLegal (rowEmits (opc * 4096 + am * 2048 + pf * 256 + step * 16) cw) := fun e he => by
  obtain ⟨n, hn, rfl⟩ := mem_rowEmits.mp he
  exact ⟨encodeAddress_lt (encodeAddress_ok ho hm hp hs hn), hw⟩

theorem exec_expandWild (opc am pf step cw : Nat) (s : State) :
    exec (.expandWild opc am pf step cw) s = settle s (expandWild s.params opc am pf step cw s.toBlock) := rfl

theorem expandWild_eq (p : Params) {opc am pf step : Nat} (ho : opc ≤ 15) (hm : am ≤ 1) (hp : pf ≤ 1) (hs : step ≤ 15)
    (cw : Nat) (b : Block) : expandWild p opc am pf step cw b =
      emitAll p (rowEmits (opc * 4096 + am * 2048 + pf * 256 + step * 16) cw) b :=
  forEach_eq_map (fun _ hn t => emitEncoded_of_ok (encodeAddress_ok ho hm hp hs (mem_nibbles.mp hn)) p cw t) b

/-- EXPAND.WILD on operands in range is the EMITs of its row. -/
theorem exec_expandWild_emitted {opc am pf step cw : Nat} (ho : opc ≤ 15) (hm : am ≤ 1) (hp : pf ≤ 1) (hs : step ≤ 15)
    (hw : cw < 2 ^ 32) (s : State) : ∃ t, exec (.expandWild opc am pf step cw) s = .next t ∧
      Emitted s (rowEmits (opc * 4096 + am * 2048 + pf * 256 + step * 16) cw) t := by
  rw [exec_expandWild, expandWild_eq s.params ho hm hp hs]
  exact settle_emitAll s (rowEmits_legal ho hm hp hs hw)

/-- EXPAND.FIXED on operands in range is one EMIT. -/
theorem exec_expandFixed_emitted {opc am pf step n cw : Nat} (ho : opc ≤ 15) (hm : am ≤ 1) (hp : pf ≤ 1) (hs : step ≤ 15)
    (hn : n ≤ 15) (hw : cw < 2 ^ 32) (s : State) : ∃ t, exec (.expandFixed opc am pf step n cw) s = .next t ∧
      Emitted s [(opc * 4096 + am * 2048 + pf * 256 + step * 16 + n, cw)] t := by
  have encoded := encodeAddress_ok ho hm hp hs hn
  rw [exec_expandFixed, emitEncoded_of_ok encoded, ← emitAll_singleton]
  exact settle_emitAll s fun e he => by
    rw [List.mem_singleton.mp he]
    exact ⟨encodeAddress_lt encoded, hw⟩

/-- Settles O23: the row as one list of EMITs, and ENCODE's fault at the first nibble. -/
theorem expandWildFillsTheRow : Obligations.ExpandWildFillsTheRow := by
  unfold Obligations.ExpandWildFillsTheRow
  refine fun opc am pf step cw s => ⟨fun ho hm hp hs hw => ⟨?_, ?_⟩, fun hbad => ?_⟩
  · have row : forEach (fun n => emit s.params (opc * 4096 + am * 2048 + pf * 256 + step * 16 + n) cw) (List.range 16)
        s.toBlock = emitAll s.params (rowEmits (opc * 4096 + am * 2048 + pf * 256 + step * 16) cw) s.toBlock :=
      forEach_eq_map (fun _ _ _ => rfl) s.toBlock
    rw [exec_expandWild, expandWild_eq s.params ho hm hp hs, row]
  · obtain ⟨t, ht, emitted⟩ := exec_expandWild_emitted ho hm hp hs hw s
    refine ⟨t, ht, emitted.result, emitted.placed, emitted.control, fun c a hc ha => emitted.outside c a hc ?_,
      emitted.diag, fun accepts => ⟨(emitted.accepted accepts).1, fun n hn =>
        emitted.holdsWord accepts (lastEmitted_rowEmits _ cw hn)⟩⟩
    rintro ⟨e, he, rfl⟩
    obtain ⟨n, hn, rfl⟩ := mem_rowEmits.mp he
    exact ha ⟨Nat.le_add_right .., Nat.add_le_add_left hn _⟩
  · obtain ⟨f, raised⟩ := encodeAddress_bad (cond := 0) (by omega : 15 < opc ∨ 1 < am ∨ 1 < pf ∨ 15 < step ∨ 15 < 0)
    have stops : expandWild s.params opc am pf step cw s.toBlock = (s.toBlock, .raised f) :=
      forEach_cons_of_stop (emitEncoded_of_error raised s.params cw s.toBlock) (by simp) _
    refine ⟨f, ?_, ?_⟩
    · rw [exec_encode, raised]
      rfl
    · rw [exec_expandWild, stops, settle_raised_unchanged]

/-- Settles O26: the second call has the last word at its own addresses and leaves the others. -/
theorem overrideLocalityAndOrderHazard : Obligations.OverrideLocalityAndOrderHazard := by
  unfold Obligations.OverrideLocalityAndOrderHazard
  intro opc am pf step n w1 w2 s ho hm hp hs hn hw1 hw2 accepts
  have hw1 : w1 < 2 ^ 32 := hw1.trans (by decide)
  have hw2 : w2 < 2 ^ 32 := hw2.trans (by decide)
  constructor
  · obtain ⟨t, ht, wild⟩ := exec_expandWild_emitted ho hm hp hs hw1 s
    obtain ⟨u, hu, fixed⟩ := exec_expandFixed_emitted ho hm hp hs hn hw2 t
    refine ⟨t, u, ht, hu, fixed.holdsWord (wild.params ▸ accepts) ((lastEmitted_singleton ..).trans (if_pos rfl)),
      fun m hm15 hmn => fixed.keeps_holdsWord (fun e he => ?_) (wild.holdsWord accepts (lastEmitted_rowEmits _ w1 hm15))⟩
    rw [List.mem_singleton.mp he]
    dsimp only
    omega
  · obtain ⟨t, ht, fixed⟩ := exec_expandFixed_emitted ho hm hp hs hn hw2 s
    obtain ⟨u, hu, wild⟩ := exec_expandWild_emitted ho hm hp hs hw1 t
    exact ⟨t, u, ht, hu, fun m hm15 => wild.holdsWord (fixed.params ▸ accepts) (lastEmitted_rowEmits _ w1 hm15)⟩

/-! ## EXPAND.TABLE -/

/-- An entry in range names the addresses it emits to. -/
theorem Entry.names_iff {e : Entry} (he : e.inRange) (a : Nat) : e.names a = true ↔ ∃ n ∈ e.admitted, a = e.base + n := by
  have last := Entry.lastEmitted_emits he a
  constructor
  · intro named
    rw [if_pos named] at last
    obtain ⟨n, hn, hna⟩ := List.mem_map.mp (mem_of_lastEmitted last)
    exact ⟨n, hn, (congrArg Prod.fst hna).symm⟩
  · rintro ⟨n, hn, rfl⟩
    by_contra notNamed
    rw [if_neg notNamed] at last
    exact lastEmitted_eq_none_iff.mp last _ (List.mem_map_of_mem hn) rfl

theorem Entry.mem_admitted {e : Entry} (he : e.inRange) {n : Nat} :
    n ∈ e.admitted ↔ n ≤ 15 ∧ (e.cond = .any ∨ e.cond = .only n) := by
  obtain ⟨-, -, -, -, hcond, -⟩ := he
  unfold Entry.admitted
  cases hc : e.cond with
  | any => simp [mem_nibbles]
  | only m =>
    have := hcond m hc
    simp only [List.mem_singleton, reduceCtorEq, CondPattern.only.injEq, false_or]
    omega

/-- Settles O25: an entry names the addresses of the EMITs it stands for. -/
theorem tableEntryNamesItsAddresses : Obligations.TableEntryNamesItsAddresses := by
  unfold Obligations.TableEntryNamesItsAddresses
  intro e a he
  simp only [Entry.names_iff he, Entry.mem_admitted he, Entry.base, and_assoc]

theorem exec_expandTable (s : State) : exec .expandTable s = settle s (expandTable s.params s.toBlock) := rfl

theorem mem_tableEmits {p : Params} {x : Nat × Nat} :
    x ∈ p.tableEmits ↔ ∃ e ∈ p.entries, ∃ n ∈ e.admitted, x = (e.base + n, e.cw) := by
  simp only [Params.tableEmits, Entry.emits, List.mem_flatMap, List.mem_map, eq_comm]

theorem tableInRange_map_raw {es : List Entry} (h : ∀ e ∈ es, e.inRange) : tableInRange (es.map Entry.raw) := by
  intro el hel
  obtain ⟨e, he, rfl⟩ := List.mem_map.mp hel
  exact ⟨e, parseEntry_raw e, h e he⟩

/-- Settles O24: the pass is the EMITs of its entries, and the last entry that names an address has the last word there. -/
theorem expandTableLastEntryWins : Obligations.ExpandTableLastEntryWins := by
  unfold Obligations.ExpandTableLastEntryWins
  intro s es htable hes
  have inRange : tableInRange s.params.table := htable ▸ tableInRange_map_raw hes
  have entries : s.params.entries = es := by rw [Params.entries, htable, entries_map_raw]
  obtain ⟨t, ht, emitted⟩ := settle_emitAll s (tableEmits_inRange inRange).legal
  rw [← expandTable_eq inRange, ← exec_expandTable] at ht
  refine ⟨t, ht, emitted.result, emitted.control, emitted.diag, fun c a hc ha => emitted.outside c a hc ?_,
    fun accepts => ⟨(emitted.accepted accepts).1, fun a e before after _ split named last =>
      emitted.holdsWord accepts ?_⟩⟩
  · rintro ⟨x, hx, rfl⟩
    obtain ⟨e, he, n, hn, rfl⟩ := mem_tableEmits.mp hx
    rw [entries] at he
    exact ha ⟨e, he, (Entry.names_iff (hes e he) _).mpr ⟨n, hn, rfl⟩⟩
  · rw [lastEmitted_tableEmits inRange, Params.tableAt, entries, split, getLast?_filter_append_cons before named last]
    rfl

/-! ## JSEQ -/

theorem exec_jseq (s : State) : exec .jseq s = settle s (jseq s.params s.toBlock) := rfl

theorem mem_templateEmits {p : Params} {x : Nat × Nat} : x ∈ p.templateEmits ↔
    ∃ t ∈ p.templateEntries, t.taddr ≠ p.decTaddr ∧
      ∃ i n, (1 ≤ i ∧ i ≤ 7) ∧ n ≤ 15 ∧ x = (t.taddr + i * 256 + n, t.cw) := by
  have one (t : TemplateEntry) (i n : Nat) :
      x ∈ t.emits p i n ↔ t.taddr ≠ p.decTaddr ∧ x = (t.taddr + i * 256 + n, t.cw) := by
    unfold TemplateEntry.emits
    split <;> simp [*]
  simp only [Params.templateEmits, List.mem_flatMap, mem_selectors, mem_nibbles, one]
  constructor
  · rintro ⟨i, hi, n, hn, t, ht, hdec, hx⟩
    exact ⟨t, ht, hdec, i, n, hi, hn, hx⟩
  · rintro ⟨t, ht, hdec, i, n, hi, hn, hx⟩
    exact ⟨i, hi, n, hn, t, ht, hdec, hx⟩

/-- JSEQ emits each entry not at the decision step at seven selectors and sixteen nibbles. -/
theorem length_templateEmits (p : Params) : p.templateEmits.length =
    112 * (p.templateEntries.filter fun t => t.taddr != p.decTaddr).length := by
  have turn (i n : Nat) : (p.templateEntries.flatMap fun t => t.emits p i n).length =
      (p.templateEntries.filter fun t => t.taddr != p.decTaddr).length := by
    induction p.templateEntries with
    | nil => rfl
    | cons t ts ih =>
      rw [List.flatMap_cons, List.length_append, ih, List.filter_cons, TemplateEntry.emits]
      by_cases ht : t.taddr = p.decTaddr <;> simp [ht, Nat.add_comm]
  simp only [Params.templateEmits, List.length_flatMap, turn, selectors, nibbles, List.map_cons, List.map_nil, List.sum_cons,
    List.sum_nil]
  omega

/-- The template-step address of an address that ENCODEJ makes is the one it was made of. -/
theorem jumpSum_and_F8F0 {taddr sel cond : Nat} (h : taddr ≤ 65535) (h1 : taddr / 256 % 8 = 0) (h2 : taddr % 16 = 0)
    (hs : sel ≤ 7) (hc : cond ≤ 15) : (taddr + sel * 256 + cond) &&& 0xF8F0 = taddr := by
  rw [and_F8F0 (jumpSum_lt h h1 h2 hs hc)]
  omega

theorem templateInRange_map_raw {ts : List TemplateEntry} (h : ∀ t ∈ ts, t.inRange) :
    templateInRange (ts.map TemplateEntry.raw) := by
  intro el hel
  obtain ⟨t, ht, rfl⟩ := List.mem_map.mp hel
  exact ⟨t, parseTemplate_raw t, h t ht⟩

/-- An entry in range is copied to the addresses of its template-step address at selectors 1 to 7, unless that is the
decision step. -/
theorem TemplateEntry.copiedTo_iff {x : TemplateEntry} (hx : x.inRange) (y : TemplateEntry) (p : Params) {i n : Nat}
    (hi : 1 ≤ i) (hi7 : i ≤ 7) (hn : n ≤ 15) :
    y.copiedTo p (x.taddr + i * 256 + n) = true ↔ y.taddr = x.taddr ∧ y.taddr ≠ p.decTaddr := by
  obtain ⟨hwide, hsel, hnibble, -⟩ := hx
  have selector : 1 ≤ (x.taddr + i * 256 + n) / 256 % 8 := by omega
  simp [TemplateEntry.copiedTo, slice_sel, selector, jumpSum_and_F8F0 hwide hsel hnibble hi7 hn]

/-- A first template element that does not complete ends JSEQ before any placement. -/
theorem jseq_of_first_stops {p : Params} {el : RawElement} {els : List RawElement} (htemplate : p.template = el :: els)
    {b : Block} {e : Ending} (first : emitTemplateElement p 1 0 el b = (b, e)) (stop : e ≠ .completed) :
    jseq p b = (b, e) := by
  have entries : forEach (emitTemplateElement p 1 0) p.template b = (b, e) :=
    htemplate ▸ forEach_cons_of_stop first stop els
  have turn : forEach (fun n => forEach (emitTemplateElement p 1 n) p.template) nibbles b = (b, e) := by
    refine forEach_cons_of_stop ?_ stop _
    exact entries
  refine forEach_cons_of_stop ?_ stop _
  exact turn

/-- ENCODEJ rejects a first entry that is not at the decision step (43_jump_expander.md R90). -/
theorem emitTemplateElement_bad_taddr {p : Params} {x : TemplateEntry} (hdec : x.taddr ≠ p.decTaddr)
    (hbad : 65535 < x.taddr ∨ x.taddr / 256 % 8 ≠ 0 ∨ x.taddr % 16 ≠ 0) (i n : Nat) (b : Block) :
    emitTemplateElement p i n x.raw b = (b, .raised (overlap .taddr x.taddr)) := by
  rw [emitTemplateElement_of_parse (parseTemplate_raw x), emitTemplate, if_neg hdec, encodeJump_bad_taddr i n hbad]

/-- Settles O29: the pass is the EMITs of its entries, each entry's addresses are its own template-step address's, and a
first entry that ENCODEJ rejects ends it. -/
theorem jseqCopiesTheTemplate : Obligations.JseqCopiesTheTemplate := by
  unfold Obligations.JseqCopiesTheTemplate
  refine ⟨fun s ts htemplate hts => ?_, fun s x els htemplate hdec hbad => ?_⟩
  · have inRange : templateInRange s.params.template := htemplate ▸ templateInRange_map_raw hts
    have entries : s.params.templateEntries = ts := by rw [Params.templateEntries, htemplate, templates_map_raw]
    obtain ⟨t, ht, emitted⟩ := settle_emitAll s (templateEmits_inRange inRange).legal
    rw [← jseq_eq inRange, ← exec_jseq] at ht
    refine ⟨t, ht, emitted.result, emitted.control, emitted.diag, ?_, fun c a hc ha => emitted.outside c a hc ?_,
      fun accepts => ⟨(emitted.accepted accepts).1, fun x before after i n split last hdec hi hi7 hn =>
        emitted.holdsWord accepts ?_⟩⟩
    · rw [emitted.placed, length_templateEmits, entries, ← Nat.mul_assoc]
    · rintro ⟨e, he, rfl⟩
      obtain ⟨x, hx, hdec, i, n, ⟨hi, hi7⟩, hn, rfl⟩ := mem_templateEmits.mp he
      exact ha ⟨x, entries ▸ hx, hdec, i, n, hi, hi7, hn, rfl⟩
    · have hx : x.inRange := hts x (by simp [split])
      obtain ⟨hwide, hsel, hnibble, -⟩ := id hx
      have copied (y : TemplateEntry) := TemplateEntry.copiedTo_iff hx y s.params hi hi7 hn
      rw [lastEmitted_templateEmits inRange (jumpSum_lt hwide hsel hnibble hi7 hn), Params.templateAt, entries, split,
        getLast?_filter_append_cons before ((copied x).mpr ⟨rfl, hdec⟩) fun y hy =>
          Bool.eq_false_of_not_eq_true fun yes => last y hy ((copied y).mp yes).1]
      rfl
  · rw [exec_jseq, jseq_of_first_stops htemplate (emitTemplateElement_bad_taddr hdec hbad 1 0 s.toBlock) (by simp)]
    rfl

/-! ## JDEC and the decision cells -/

theorem exec_jdec (s : State) : exec .jdec s = settle s (jdec s.params s.toBlock) := rfl

/-- The address of a decision cell, as the rule writes it (43_jump_expander.md R94). -/
theorem Params.decisionAddress_eq (p : Params) (i j : Nat) :
    p.decTaddr + (i <<< Config.selShift) + (j <<< Config.flagpatShift) = p.jumpBase + 0x0030 + i * 256 + j * 2 := by
  rw [Nat.shiftLeft_eq, Nat.shiftLeft_eq]
  rfl

/-- The branch decision of R94 in numbers: on three bits each, a tested flag is set. -/
theorem decision_eq : ∀ i ≤ 7, ∀ j ≤ 7, decision (JumpSelector.ofNat i) (FlagPattern.ofNat j) = decide (i &&& j ≠ 0) := by
  decide

theorem Params.decisionWord_eq (p : Params) {i j : Nat} (hi : i ≤ 7) (hj : j ≤ 7) :
    p.decisionWord i j = if i &&& j ≠ 0 then p.cwContinue else p.cwAbort := by
  simp only [Params.decisionWord, decision_eq i hi j hj, decide_eq_true_eq]

theorem Params.decisionWord_lt {p : Params} {w : Nat} (hcontinue : p.cwContinue < w) (habort : p.cwAbort < w) (i j : Nat) :
    p.decisionWord i j < w := by
  unfold Params.decisionWord
  split
  · exact hcontinue
  · exact habort

theorem mem_decisionCells {p : Params} {e : Nat × Nat} : e ∈ p.decisionCells ↔
    ∃ i j, (1 ≤ i ∧ i ≤ 7) ∧ j ≤ 7 ∧ e = (p.jumpBase + 0x0030 + i * 256 + j * 2, p.decisionWord i j) := by
  simp only [Params.decisionCells, List.mem_flatMap, List.mem_map, mem_selectors, mem_patterns, p.decisionAddress_eq,
    eq_comm (a := e), exists_and_left]

theorem decisionCells_legal {p : Params} (hwide : p.jumpBase ≤ 65535) (hlow : p.jumpBase % 2048 = 0)
    (hcontinue : p.cwContinue < 2 ^ 32) (habort : p.cwAbort < 2 ^ 32) : EmitsLegal p.decisionCells := by
  intro e he
  obtain ⟨i, j, ⟨-, hi⟩, hj, rfl⟩ := mem_decisionCells.mp he
  refine ⟨?_, Params.decisionWord_lt hcontinue habort i j⟩
  simp only [Config.imageSize]
  omega

/-- Each decision cell has one word: its address tells its selector and its flag pattern. -/
theorem lastEmitted_decisionCell (p : Params) {i j : Nat} (hi : 1 ≤ i) (hi7 : i ≤ 7) (hj : j ≤ 7) :
    lastEmitted p.decisionCells (p.jumpBase + 0x0030 + i * 256 + j * 2) = some (p.decisionWord i j) := by
  refine lastEmitted_eq_some (mem_decisionCells.mpr ⟨i, j, ⟨hi, hi7⟩, hj, rfl⟩) fun e he hea => ?_
  obtain ⟨i', j', -, hj', rfl⟩ := mem_decisionCells.mp he
  dsimp only at hea ⊢
  have same : i' = i ∧ j' = j := by omega
  rw [same.1, same.2]

/-- Settles O32: the pass is the EMITs of the 56 decision cells. -/
theorem jdecWritesTheTruthTable : Obligations.JdecWritesTheTruthTable := by
  unfold Obligations.JdecWritesTheTruthTable
  intro s hwide hlow hcontinue habort
  obtain ⟨t, ht, emitted⟩ := settle_emitAll s (decisionCells_legal hwide hlow hcontinue habort)
  rw [← jdec_eq hwide hlow, ← exec_jdec] at ht
  refine ⟨t, ht, emitted.result, emitted.placed, emitted.control, emitted.diag,
    fun c a hc ha => emitted.outside c a hc ?_, fun accepts => ⟨(emitted.accepted accepts).1, fun i j hi hi7 hj => ?_⟩⟩
  · rintro ⟨e, he, rfl⟩
    obtain ⟨i, j, ⟨hi, hi7⟩, hj, rfl⟩ := mem_decisionCells.mp he
    exact ha ⟨i, j, hi, hi7, hj, rfl⟩
  · rw [← s.params.decisionWord_eq hi7 hj]
    exact emitted.holdsWord accepts (lastEmitted_decisionCell s.params hi hi7 hj)

/-- Each of the 56 rows is the body of JDEC at its selector and flag pattern (log 5). -/
theorem exec_decisionCell {ins : Instr} {i j : Nat} (h : decisionCellOf ins = some (i, j)) (s : State) :
    exec ins s = settle s (emitDecision s.params i j s.toBlock) := by
  cases ins <;> simp only [decisionCellOf, Option.some.injEq, Prod.mk.injEq, reduceCtorEq] at h <;>
    obtain ⟨rfl, rfl⟩ := h <;> rfl

/-- The selectors of the 56 rows are 1 to 7 and their flag patterns 0 to 7. -/
theorem decisionCellOf_bounds {ins : Instr} {i j : Nat} (h : decisionCellOf ins = some (i, j)) : 1 ≤ i ∧ i ≤ 7 ∧ j ≤ 7 := by
  cases ins <;> simp only [decisionCellOf, Option.some.injEq, Prod.mk.injEq, reduceCtorEq] at h <;> omega

/-- Settles O33: each row is one EMIT, at the address and with the word of its cell. -/
theorem decisionCellRowsEmitOneCell : Obligations.DecisionCellRowsEmitOneCell := by
  unfold Obligations.DecisionCellRowsEmitOneCell
  intro ins i j s hins hwide hlow hcontinue habort
  obtain ⟨hi, hi7, hj⟩ := decisionCellOf_bounds hins
  refine ⟨⟨hi, hi7, hj⟩, ?_⟩
  have legal : EmitsLegal [(s.params.jumpBase + 0x0030 + i * 256 + j * 2, s.params.decisionWord i j)] := fun e he =>
    decisionCells_legal hwide hlow hcontinue habort e
      (List.mem_singleton.mp he ▸ mem_decisionCells.mpr ⟨i, j, ⟨hi, hi7⟩, hj, rfl⟩)
  obtain ⟨t, ht, emitted⟩ := settle_emitAll s legal
  rw [emitAll_singleton, ← s.params.decisionAddress_eq, ← emitDecision_eq hwide hlow hi7 hj,
    ← exec_decisionCell hins] at ht
  refine ⟨t, ht, emitted.result, emitted.placed, emitted.control, emitted.diag,
    fun c a hc ha => emitted.outside c a hc ?_, fun accepts => ⟨(emitted.accepted accepts).1, ?_⟩⟩
  · rintro ⟨e, he, rfl⟩
    exact ha (congrArg Prod.fst (List.mem_singleton.mp he))
  · rw [← s.params.decisionWord_eq hi7 hj]
    exact emitted.holdsWord accepts ((lastEmitted_singleton ..).trans (if_pos rfl))

end Sys2Proof.Machine

/-! Which cells the passes can reach at all (40_address_codec.md R65, 43_jump_expander.md R91, R92, R96, R97), in any direct call
and however it ends; and where a direct call stops at its first element (logs 14, 16). -/

namespace Sys2Proof.Machine

/-! ## Blocks that differ at some addresses only -/

/-- Every cell of the three images reads the same in both blocks, but for the cells of the given addresses. -/
def Block.sameOutside (touched : Nat → Prop) (b u : Block) : Prop :=
  ∀ c a, c < Config.chips → ¬ touched a → u.cell c a = b.cell c a

section

variable {touched : Nat → Prop}

theorem Block.sameOutside_refl (b : Block) : b.sameOutside touched b := fun _ _ _ _ => rfl

theorem Block.sameOutside_trans {b t u : Block} (h : Block.sameOutside touched b t) (k : Block.sameOutside touched t u) :
    Block.sameOutside touched b u := fun c a hc ha => (k c a hc ha).trans (h c a hc ha)

theorem forEach_sameOutside {α : Type} {body : α → Block → Block × Ending} {xs : List α}
    (h : ∀ x ∈ xs, ∀ b, Block.sameOutside touched b (body x b).1) (b : Block) :
    Block.sameOutside touched b (forEach body xs b).1 :=
  forEach_rel (R := Block.sameOutside touched) Block.sameOutside_refl Block.sameOutside_trans h b

theorem emit_sameOutside (p : Params) {a : Nat} (w : Nat) (b : Block) (ha : touched a) :
    Block.sameOutside touched b (emit p a w b).1 := fun _ _ hc hx =>
  emit_other p b hc fun same => hx (same ▸ ha)

/-- A call that settles a sequence of placements leaves the cells the sequence leaves. -/
theorem cell_of_settle {s t : State} {r : Block × Ending} (h : settle s r = .next t) {c a : Nat} (hc : c < Config.chips)
    (frame : Block.sameOutside touched s.toBlock r.1) (ha : ¬ touched a) : t.cell c a = s.cell c a := by
  obtain ⟨v, rfl⟩ := settle_next h
  exact frame c a hc ha

end

/-! ## The table passes and bits 10:9 -/

theorem emitEncoded_sameOutside (p : Params) (opc am pf step cw n : Nat) (b : Block) :
    Block.sameOutside (fun a => a / 512 % 4 = 0) b (emitEncoded p opc am pf step cw n b).1 := by
  cases h : encodeAddress opc am pf step n with
  | error f => rw [emitEncoded_of_error h]; exact b.sameOutside_refl
  | ok a =>
    rw [emitEncoded_of_ok h]
    obtain ⟨bounds, sum⟩ := encodeAddress_eq_ok h
    exact emit_sameOutside p cw b (by omega)

theorem expandElement_sameOutside (p : Params) (el : RawElement) (b : Block) :
    Block.sameOutside (fun a => a / 512 % 4 = 0) b (expandElement p el b).1 := by
  cases h : parseEntry el with
  | none => rw [expandElement, h]; exact b.sameOutside_refl
  | some e =>
    rw [expandElement_of_parse h, expandEntry_eq_forEach]
    exact forEach_sameOutside (fun n _ t => emitEncoded_sameOutside p e.opc e.am e.pf e.step e.cw n t) b

/-- Settles O27: every EMIT of a table call goes to an address ENCODE made. -/
theorem tableNeverReachesReservedBits : Obligations.TableNeverReachesReservedBits := by
  unfold Obligations.TableNeverReachesReservedBits
  rintro s t c a hc ha (h | ⟨opc, am, pf, step, cw, h⟩ | ⟨opc, am, pf, step, n, cw, h⟩)
  · exact cell_of_settle h hc (forEach_sameOutside (fun el _ => expandElement_sameOutside s.params el) s.toBlock) ha
  · exact cell_of_settle h hc (forEach_sameOutside (fun n _ => emitEncoded_sameOutside s.params opc am pf step cw n) s.toBlock)
      ha
  · exact cell_of_settle h hc (emitEncoded_sameOutside s.params opc am pf step cw n s.toBlock) ha

/-! ## The jump passes, selector 0 and the decision step -/

/-- The addresses JSEQ can reach: selectors 1 to 7, not at the decision step (R91, R92). -/
def Params.sequenceReach (p : Params) (a : Nat) : Prop := a < 65536 ∧ 1 ≤ a / 256 % 8 ∧ a &&& 0xF8F0 ≠ p.decTaddr

/-- The addresses JDEC can reach: selectors 1 to 7, at the decision step (R91, R94). -/
def Params.decisionReach (p : Params) (a : Nat) : Prop := a < 65536 ∧ 1 ≤ a / 256 % 8 ∧ a &&& 0xF8F0 = p.decTaddr

/-- An address that ENCODEJ makes at selector 1 or more carries that selector, and its template-step address is the
operand. -/
theorem encodeJump_reach {taddr sel cond a : Nat} (h : encodeJump taddr sel cond = .ok a) (hs : 1 ≤ sel) :
    a < 65536 ∧ 1 ≤ a / 256 % 8 ∧ a &&& 0xF8F0 = taddr := by
  obtain ⟨⟨hwide, hsel, hnibble, hs7, hc⟩, rfl⟩ := encodeJump_eq_ok h
  exact ⟨jumpSum_lt hwide hsel hnibble hs7 hc, by omega, jumpSum_and_F8F0 hwide hsel hnibble hs7 hc⟩

theorem emitTemplateElement_sameOutside (p : Params) {i : Nat} (hi : 1 ≤ i) (n : Nat) (el : RawElement) (b : Block) :
    Block.sameOutside p.sequenceReach b (emitTemplateElement p i n el b).1 := by
  unfold emitTemplateElement emitTemplate
  split
  · exact b.sameOutside_refl
  · split
    · exact b.sameOutside_refl
    · next hdec =>
      split
      · exact b.sameOutside_refl
      · next a ha =>
        obtain ⟨hlt, hsel, htaddr⟩ := encodeJump_reach ha hi
        exact emit_sameOutside p _ b ⟨hlt, hsel, htaddr ▸ hdec⟩

theorem jseq_sameOutside (p : Params) (b : Block) : Block.sameOutside p.sequenceReach b (jseq p b).1 :=
  forEach_sameOutside (fun _ hi => forEach_sameOutside fun n _ => forEach_sameOutside fun el _ =>
    emitTemplateElement_sameOutside p (mem_selectors.mp hi).1 n el) b

theorem emitDecision_sameOutside (p : Params) {i : Nat} (hi : 1 ≤ i) (j : Nat) (b : Block) :
    Block.sameOutside p.decisionReach b (emitDecision p i j b).1 := by
  unfold emitDecision
  split
  · exact b.sameOutside_refl
  · next a ha => exact emit_sameOutside p _ b (encodeJump_reach ha hi)

theorem jdec_sameOutside (p : Params) (b : Block) : Block.sameOutside p.decisionReach b (jdec p b).1 :=
  forEach_sameOutside (fun _ hi => forEach_sameOutside fun j _ => emitDecision_sameOutside p (mem_selectors.mp hi).1 j) b

/-- JSEQ leaves every cell it cannot reach. -/
theorem exec_jseq_cell {s t : State} {c a : Nat} (h : exec .jseq s = .next t) (hc : c < Config.chips)
    (ha : ¬ s.params.sequenceReach a) : t.cell c a = s.cell c a :=
  cell_of_settle h hc (jseq_sameOutside s.params s.toBlock) ha

/-- JDEC leaves every cell it cannot reach. -/
theorem exec_jdec_cell {s t : State} {c a : Nat} (h : exec .jdec s = .next t) (hc : c < Config.chips)
    (ha : ¬ s.params.decisionReach a) : t.cell c a = s.cell c a :=
  cell_of_settle h hc (jdec_sameOutside s.params s.toBlock) ha

/-- Settles O30: both passes reach selectors 1 to 7 only. -/
theorem selectorZeroIsNeverGenerated : Obligations.SelectorZeroIsNeverGenerated := by
  unfold Obligations.SelectorZeroIsNeverGenerated
  rintro s t c a hc ha (h | h)
  · exact exec_jseq_cell h hc fun ⟨_, hsel, _⟩ => by omega
  · exact exec_jdec_cell h hc fun ⟨_, hsel, _⟩ => by omega

/-- Settles O31: JSEQ does not reach the decision step. -/
theorem decisionStepIsNotCopied : Obligations.DecisionStepIsNotCopied := by
  unfold Obligations.DecisionStepIsNotCopied
  exact fun s t c a hc ha h => exec_jseq_cell h hc fun ⟨_, _, hdec⟩ => hdec ha

/-- Settles O35: the two passes reach no common address, as one leaves out the decision step and the other stays on it. -/
theorem passAddressSetsAreDisjoint : Obligations.PassAddressSetsAreDisjoint := by
  unfold Obligations.PassAddressSetsAreDisjoint
  refine fun s t u c a _ _ hc ht hu => ⟨?_, fun changed => ?_, fun changed => ?_⟩
  · by_cases ha : s.params.sequenceReach a
    · obtain ⟨-, -, notDecision⟩ := ha
      exact .inr (exec_jdec_cell hu hc fun ⟨_, _, hdec⟩ => notDecision hdec)
    · exact .inl (exec_jseq_cell ht hc ha)
  · by_contra ha
    exact changed (exec_jseq_cell ht hc ha)
  · by_contra ha
    exact changed (exec_jdec_cell hu hc ha)

/-! ## Where a direct call stops at once -/

/-- Settles O28: the first element ends the pass as malformed (log 14). -/
theorem passesRefuseMalformedElements : Obligations.PassesRefuseMalformedElements := by
  unfold Obligations.PassesRefuseMalformedElements
  refine fun s el els => ⟨fun htable hparse => ?_, fun htemplate hparse => ?_⟩
  · have stops : expandTable s.params s.toBlock = (s.toBlock, .malformed .table) := by
      rw [expandTable, htable]
      exact forEach_cons_of_stop (by rw [expandElement, hparse]) (by simp) els
    rw [exec_expandTable, stops]
    rfl
  · have first : emitTemplateElement s.params 1 0 el s.toBlock = (s.toBlock, .malformed .jumpTemplate) := by
      rw [emitTemplateElement, hparse]
    rw [exec_jseq, jseq_of_first_stops htemplate first (by simp)]
    rfl

/-- Settles O34: ENCODEJ rejects the template-step address of the first cell (log 16). -/
theorem jdecRejectsUnvalidatedBase : Obligations.JdecRejectsUnvalidatedBase := by
  unfold Obligations.JdecRejectsUnvalidatedBase
  intro s hbad
  have first : emitDecision s.params 1 0 s.toBlock = (s.toBlock, .raised (overlap .taddr s.params.decTaddr)) := by
    rw [emitDecision, encodeJump_bad_taddr (taddr := s.params.decTaddr) 1 _ hbad]
  have row : forEach (fun j => emitDecision s.params 1 j) patterns s.toBlock =
      (s.toBlock, .raised (overlap .taddr s.params.decTaddr)) := by
    refine forEach_cons_of_stop ?_ (by simp) _
    exact first
  have stops : jdec s.params s.toBlock = (s.toBlock, .raised (overlap .taddr s.params.decTaddr)) := by
    refine forEach_cons_of_stop ?_ (by simp) _
    exact row
  rw [exec_jdec, stops]
  rfl

end Sys2Proof.Machine

/-! VALIDATE in written order (44_generate_and_lookup.md R100), and what a finished run of GENERATE holds (R104, R107;
43_jump_expander.md R98). -/

namespace Sys2Proof.Machine

/-! ## The first violation -/

theorem exec_validate_pass {s : State} (h : s.params.meetsConstraints) : exec .validate s = .next (s.returns .done) := by
  rw [exec_validate, (validate_eq_none_iff _).mpr h]
  rfl

theorem exec_validate_fault {s : State} {f : SpecFault} (h : validate s.params = some f) :
    exec .validate s = .next (s.takeFault f) := by
  rw [exec_validate, h]
  rfl

/-- Settles O36: VALIDATE reports nothing exactly on the parameters that meet the constraints. -/
theorem validatePassesExactly : Obligations.ValidatePassesExactly := by
  unfold Obligations.ValidatePassesExactly
  refine fun s => ⟨exec_validate_pass, fun h => ?_⟩
  obtain ⟨f, hf⟩ := validate_eq_some_of_not_meets h
  exact ⟨f, hf, exec_validate_fault hf⟩

@[simp] theorem firstViolation_nil : firstViolation [] = none := rfl
@[simp] theorem firstViolation_none (cs : List (Option SpecFault)) : firstViolation (none :: cs) = firstViolation cs := rfl
@[simp] theorem firstViolation_some (f : SpecFault) (cs : List (Option SpecFault)) : firstViolation (some f :: cs) = some f := rfl

/-- One check after the other: the first that reports decides. -/
theorem firstViolation_cons (c : Option SpecFault) (cs : List (Option SpecFault)) :
    firstViolation (c :: cs) = c.or (firstViolation cs) := by
  cases c <;> rfl

/-- Elements in order before an offending one are passed over, and the offending one is reported at its index. -/
theorem checkElements_of_first {check : Nat → RawElement → Option SpecFault} {before after : List RawElement}
    {el : RawElement} {f : SpecFault} {k : Nat} (hb : ∀ x ∈ before, ∀ j, check j x = none)
    (hf : check (k + before.length) el = some f) : checkElements check k (before ++ el :: after) = some f := by
  induction before generalizing k with
  | nil =>
    rw [List.nil_append, checkElements, show check k el = some f from hf]
    rfl
  | cons x before ih =>
    obtain ⟨hx, hb⟩ := List.forall_mem_cons.mp hb
    rw [List.cons_append, checkElements, hx k]
    refine (firstViolation_cons _ _).trans ?_
    rw [ih hb (by rwa [Nat.add_assoc, Nat.add_comm 1])]
    rfl

section

variable {p : Params} {f : SpecFault}

/-- VALIDATE reports an offending layout first. -/
theorem validate_of_layout (h : checkLayout p.cwl = some f) : validate p = some f := by
  rw [validate, h, firstViolation_some]

/-- After a valid layout VALIDATE reports the first offending element of TABLE. -/
theorem validate_of_table {before after : List RawElement} {el : RawElement} (hL : p.cwl.valid = true)
    (htable : p.table = before ++ el :: after) (hb : tableInRange before)
    (hf : checkTableElement before.length el = some f) : validate p = some f := by
  have elements : checkElements checkTableElement 0 p.table = some f := by
    rw [htable]
    refine checkElements_of_first (fun x hx j => (checkTableElement_eq_none_iff j x).mpr (hb x hx)) ?_
    rwa [Nat.zero_add]
  rw [validate, (checkLayout_eq_none_iff _).mpr hL, elements, firstViolation_none, firstViolation_some]

theorem checkTable_none (h : tableInRange p.table) : checkElements checkTableElement 0 p.table = none :=
  (checkElements_eq_none_iff checkTableElement_eq_none_iff 0 p.table).mpr h

theorem checkTemplate_none (h : templateInRange p.template) : checkElements checkTemplateElement 0 p.template = none :=
  (checkElements_eq_none_iff checkTemplateElement_eq_none_iff 0 p.template).mpr h

/-- After the layout and TABLE VALIDATE reports the first offending element of JUMP_TEMPLATE. -/
theorem validate_of_template {before after : List RawElement} {el : RawElement} (hL : p.cwl.valid = true)
    (htable : tableInRange p.table) (htemplate : p.template = before ++ el :: after) (hb : templateInRange before)
    (hf : checkTemplateElement before.length el = some f) : validate p = some f := by
  have elements : checkElements checkTemplateElement 0 p.template = some f := by
    rw [htemplate]
    refine checkElements_of_first (fun x hx j => (checkTemplateElement_eq_none_iff j x).mpr (hb x hx)) ?_
    rwa [Nat.zero_add]
  rw [validate, (checkLayout_eq_none_iff _).mpr hL, checkTable_none htable, elements, firstViolation_none,
    firstViolation_none, firstViolation_some]

end

/-! ## The checks of one value -/

section

variable {q : Prop} [Decidable q] (what : What) (v : Nat)

/-- A value in range passes its check. -/
theorem rangeCheck_pass (h : q) : rangeCheck (decide q) what v = none := by
  rw [rangeCheck, decide_eq_true h]
  rfl

/-- A value out of range is reported. -/
theorem rangeCheck_fail (h : ¬ q) : rangeCheck (decide q) what v = some (.fieldOverlap what (.num v)) := by
  rw [rangeCheck, decide_eq_false h]
  rfl

/-- A range check followed by others, by the condition that fails it. -/
theorem firstViolation_rangeCheck {bad : Prop} [Decidable bad] (h : bad ↔ ¬ q) (cs : List (Option SpecFault)) :
    firstViolation (rangeCheck (decide q) what v :: cs) =
      if bad then some (.fieldOverlap what (.num v)) else firstViolation cs := by
  split_ifs with hbad
  · rw [rangeCheck_fail what v (h.mp hbad), firstViolation_some]
  · rw [rangeCheck_pass what v (not_not.mp fun hq => hbad (h.mpr hq)), firstViolation_none]

end

theorem firstViolation_ite {bad : Prop} [Decidable bad] (f : SpecFault) (cs : List (Option SpecFault)) :
    firstViolation ((if bad then some f else none) :: cs) = if bad then some f else firstViolation cs := by
  split_ifs <;> rfl

/-- The check of a template-step address, as ENCODEJ makes it (43_jump_expander.md R90). -/
theorem taddrCheck_eq (v : Nat) : (decide (v ≤ 65535) && (v &&& 0x070F) == 0) =
    decide (v ≤ 65535 ∧ v / 256 % 8 = 0 ∧ v % 16 = 0) := by
  rw [Bool.decide_and, beq_eq_decide, decide_eq_decide.mpr (and_070F_eq_zero_iff v)]

/-- The check of JUMP_BASE: bits 10:0 are zero. -/
theorem jumpBaseCheck_eq (v : Nat) : (decide (v ≤ 65535) && (v &&& 0x07FF) == 0) = decide (v ≤ 65535 ∧ v % 2048 = 0) := by
  rw [Bool.decide_and, beq_eq_decide, show v &&& 0x07FF = v % 2048 from Nat.and_two_pow_sub_one_eq_mod v 11]

/-- With layout and lists in order the scalar parameters are checked in the written order. -/
theorem validate_of_lists {p : Params} (hL : p.cwl.valid = true) (htable : tableInRange p.table)
    (htemplate : templateInRange p.template) : validate p =
      if 65535 < p.jumpBase ∨ p.jumpBase % 2048 ≠ 0 then some (.fieldOverlap (.operand .jumpBase) (.num p.jumpBase))
      else if 2 ^ 24 ≤ p.cwContinue then some (.fieldOverlap (.operand .cwContinue) (.num p.cwContinue))
      else if 2 ^ 24 ≤ p.cwAbort then some (.fieldOverlap (.operand .cwAbort) (.num p.cwAbort))
      else if p.cwContinue = p.cwAbort then some (.malformedEntry .decisionWords 0)
      else if 256 ≤ p.fill0 then some (.fieldOverlap (.fill 0) (.num p.fill0))
      else if 256 ≤ p.fill1 then some (.fieldOverlap (.fill 1) (.num p.fill1))
      else if 256 ≤ p.fill2 then some (.fieldOverlap (.fill 2) (.num p.fill2))
      else none := by
  have base : 65535 < p.jumpBase ∨ p.jumpBase % 2048 ≠ 0 ↔ ¬ (p.jumpBase ≤ 65535 ∧ p.jumpBase % 2048 = 0) := by omega
  have word (v : Nat) : 2 ^ 24 ≤ v ↔ ¬ v < Config.wordLimit := not_lt.symm
  have byte (v : Nat) : 256 ≤ v ↔ ¬ v < Config.laneLimit := not_lt.symm
  rw [validate, (checkLayout_eq_none_iff _).mpr hL, checkTable_none htable, checkTemplate_none htemplate,
    firstViolation_none, firstViolation_none, firstViolation_none, jumpBaseCheck_eq, firstViolation_rangeCheck _ _ base,
    firstViolation_rangeCheck _ _ (word _), firstViolation_rangeCheck _ _ (word _), firstViolation_ite,
    firstViolation_rangeCheck _ _ (byte _), firstViolation_rangeCheck _ _ (byte _), firstViolation_rangeCheck _ _ (byte _),
    firstViolation_nil]

theorem checkTableElement_malformed {el : RawElement} (h : parseEntry el = none) (k : Nat) :
    checkTableElement k el = some (.malformedEntry .table k) := by
  rw [checkTableElement, h]

theorem checkTemplateElement_malformed {el : RawElement} (h : parseTemplate el = none) (k : Nat) :
    checkTemplateElement k el = some (.malformedEntry .jumpTemplate k) := by
  rw [checkTemplateElement, h]

/-- The first field in row order that offends is the one the check of the layout names (log 17). -/
theorem checkLayout_of_first {L : Layout} {before after : List CwField} {f : CwField}
    (split : rowOrder = before ++ f :: after) (hb : ∀ g ∈ before, L.offends g = false) (hf : L.offends f = true) :
    checkLayout L = some (.fieldOverlap .layout (.field f)) := by
  have passed : before.find? L.offends = none := List.find?_eq_none.mpr fun g hg => by simp [hb g hg]
  have first : L.firstOffender = some f := by
    rw [Layout.firstOffender, split, List.find?_append, passed, List.find?_cons_of_pos hf]
    rfl
  rw [checkLayout, first]

/-- Settles O37: what comes before the violation passes its checks, and within an element the checks are in written
order. -/
theorem firstViolationIsReported : Obligations.FirstViolationIsReported := by
  unfold Obligations.FirstViolationIsReported
  refine fun p => ⟨fun before f after split hb hf => validate_of_layout (checkLayout_of_first split hb hf),
    fun before el after hL htable hb => ?_, fun before el after hL htable htemplate hb => ?_, validate_of_lists⟩
  · have report {f : SpecFault} := validate_of_table (f := f) hL htable hb
    refine ⟨fun hparse => report (checkTableElement_malformed hparse _), fun e hparse =>
      ⟨fun bad => report ?_, fun ho bad => report ?_, fun ho hm bad => report ?_, fun ho hm hp bad => report ?_,
        fun n ho hm hp hs hcond bad => report ?_, fun ho hm hp hs hcond bad => report ?_⟩⟩ <;>
      rw [checkTableElement, hparse] <;> dsimp only
    · rw [rangeCheck_fail _ _ (by omega), firstViolation_some]
    · rw [rangeCheck_pass _ _ ho, firstViolation_none, rangeCheck_fail _ _ (by omega), firstViolation_some]
    · rw [rangeCheck_pass _ _ ho, firstViolation_none, rangeCheck_pass _ _ hm, firstViolation_none,
        rangeCheck_fail _ _ (by omega), firstViolation_some]
    · rw [rangeCheck_pass _ _ ho, firstViolation_none, rangeCheck_pass _ _ hm, firstViolation_none,
        rangeCheck_pass _ _ hp, firstViolation_none, rangeCheck_fail _ _ (by omega), firstViolation_some]
    · rw [rangeCheck_pass _ _ ho, firstViolation_none, rangeCheck_pass _ _ hm, firstViolation_none,
        rangeCheck_pass _ _ hp, firstViolation_none, rangeCheck_pass _ _ hs, firstViolation_none, hcond]
      dsimp only
      rw [rangeCheck_fail _ _ (by omega), firstViolation_some]
    · have wide : ¬ e.cw < Config.wordLimit := not_lt.mpr bad
      rw [rangeCheck_pass _ _ ho, firstViolation_none, rangeCheck_pass _ _ hm, firstViolation_none,
        rangeCheck_pass _ _ hp, firstViolation_none, rangeCheck_pass _ _ hs, firstViolation_none, rangeCheck_fail _ _ wide]
      split
      · rw [firstViolation_none, firstViolation_some]
      · next n hn => rw [rangeCheck_pass _ _ (hcond n hn), firstViolation_none, firstViolation_some]
  · have report {f : SpecFault} := validate_of_template (f := f) hL htable htemplate hb
    refine ⟨fun hparse => report (checkTemplateElement_malformed hparse _), fun t hparse =>
      ⟨fun bad => report ?_, fun hwide hsel hnibble bad => report ?_⟩⟩ <;>
      rw [checkTemplateElement, hparse] <;> dsimp only <;> rw [taddrCheck_eq]
    · rw [rangeCheck_fail _ _ (by omega), firstViolation_some]
    · have wide : ¬ t.cw < Config.wordLimit := not_lt.mpr bad
      rw [rangeCheck_pass _ _ ⟨hwide, hsel, hnibble⟩, firstViolation_none, rangeCheck_fail _ _ wide, firstViolation_some]

/-! ## The images of a finished run -/

/-- The final bytes of an address are the lanes of the word LOOKUP joins them to. -/
theorem finalByte_of_lookupWord {p : Params} (h : p.meetsConstraints) {b : Block} {a w c : Nat}
    (hw : lookupWord p b a = .ok w) (hc : c < 3) : b.finalByte p c a = w / 2 ^ (8 * c) % 256 := by
  have h0 := b.finalByte_lt h 0 a
  have h1 := b.finalByte_lt h 1 a
  have h2 := b.finalByte_lt h 2 a
  rw [lookupWord, laneJoin_ok h0 h1 h2] at hw
  have joined := Except.ok.inj hw
  have hc' : c = 0 ∨ c = 1 ∨ c = 2 := by omega
  rcases hc' with rfl | rfl | rfl <;> omega

/-- Settles O43: each image byte is a lane of what LOOKUP returns, which is RESOLVE. -/
theorem finishedImagesHoldTheLanes : Obligations.FinishedImagesHoldTheLanes := by
  unfold Obligations.FinishedImagesHoldTheLanes
  refine fun s h accepts => ⟨_, exec_generate h, rfl, fun c hc => ⟨?_, fun n hn => ?_⟩⟩
  · rw [State.finishedImage, List.length_map, List.length_range]
    rfl
  · have index : (List.range Config.imageSize)[n]? = some n := List.getElem?_range hn
    rw [State.finishedImage, List.getElem?_map, index, Option.map_some, State.finish_toBlock, State.finish_params,
      finalByte_of_lookupWord h (lookupWord_passes h accepts hn) hc]

/-- A cell that a run leaves written is at the address of one of its EMITs. -/
theorem exists_emit_of_written {p : Params} (h : p.meetsConstraints) {c a : Nat} (hc : c < Config.chips)
    (written : (passes p Block.reset).1.cell c a ≠ none) :
    (∃ e ∈ p.tableEmits, e.1 = a) ∨ (∃ e ∈ p.templateEmits, e.1 = a) ∨ ∃ e ∈ p.decisionCells, e.1 = a := by
  have emitted : ∃ e ∈ p.emits, e.1 = a := by
    by_contra notEmitted
    rw [passes_eq h, emitAll_other p (fun e he hea => notEmitted ⟨e, he, hea⟩) hc, Block.reset_cell] at written
    exact written rfl
  simpa only [Params.emits, List.mem_append, or_and_right, exists_or, or_assoc] using emitted

/-- An address that an entry in range emits to has bits 10:9 zero. -/
theorem Entry.base_add_reserved {e : Entry} (he : e.inRange) {n : Nat} (hn : n ≤ 15) : (e.base + n) / 512 % 4 = 0 := by
  obtain ⟨ho, hm, hp, hs, -, -⟩ := he
  unfold Entry.base
  omega

/-- Settles O44: of the three passes JSEQ skips the decision step, JDEC writes even nibbles only, and an entry that names
the cell has bits 10:9 zero. -/
theorem interruptPendingDecisionCells : Obligations.InterruptPendingDecisionCells := by
  unfold Obligations.InterruptPendingDecisionCells
  refine fun s h => ⟨_, exec_generate h, fun i j c hi hi7 hj hc written => ?_⟩
  obtain ⟨-, htable, htemplate, ⟨-, hlow⟩, -⟩ := id h
  obtain ⟨x, hx, hxa⟩ | ⟨x, hx, hxa⟩ | ⟨x, hx, hxa⟩ := exists_emit_of_written h hc written
  · obtain ⟨e, he, n, hn, rfl⟩ := mem_tableEmits.mp hx
    have inRange := Params.inRange_of_mem_entries htable he
    have reserved := Entry.base_add_reserved inRange (Entry.le_of_mem_admitted inRange hn)
    exact ⟨by omega, e, he, (Entry.names_iff inRange _).mpr ⟨n, hn, hxa.symm⟩⟩
  · obtain ⟨t, ht, hdec, i', n, ⟨-, hi7'⟩, hn, rfl⟩ := mem_templateEmits.mp hx
    obtain ⟨-, hsel, hnibble, -⟩ := Params.inRange_of_mem_templateEntries htemplate ht
    have := s.params.decTaddr_eq
    omega
  · obtain ⟨i', j', -, hj', rfl⟩ := mem_decisionCells.mp hx
    omega

end Sys2Proof.Machine
